-- ==== Sys2Proof/Word.lean ====
section
/-! DEFINITION. The word types of the block and the names of its four voices. -/

namespace Sys2Proof

/-- A byte of the table store, a page number, an amplitude, the output register. -/
abbrev Byte := BitVec 8

/-- A phase accumulator, an increment, `RESP`, `STATUS`. -/
abbrev Word16 := BitVec 16

/-- A beat-clock counter. -/
abbrev Word32 := BitVec 32

/-- A command word, `FAULT_CMD`. -/
abbrev Word64 := BitVec 64

/-- The four voices of rule R22 (10_state.md): `V[0]` to `V[3]`. -/
inductive VoiceId where
  | v0
  | v1
  | v2
  | v3
deriving DecidableEq, Repr, Inhabited

end Sys2Proof
end

