-- ==== Sys2Proof/Syntax.lean ====
section
/-! DEFINITION. The seven commands of `IBXL-CMD v1`, one constructor per row of the opcode map
(30_encoding.md rule R88). The tick is no command (rule R89) and has no constructor. -/

namespace Sys2Proof

/-- A command with its decoded operands (30_encoding.md rule R90). -/
inductive Instr where
  /-- `SETUP`, format S (R82, R150). `mdep` is the signed value `sext_11(w[10:0])`. -/
  | setup (v : VoiceId) (wref : Byte) (winc : Word16) (eref : Byte) (einc : Word16) (mdep : Int)
  /-- `TRIGGER_MIDI`, format N (R83, R151). -/
  | triggerMidi (v : VoiceId) (note : BitVec 7)
  /-- `RETRIGGER`, format V (R84, R152). -/
  | retrigger (v : VoiceId)
  /-- `TRIGGER_HZ`, format F (R85, R153). -/
  | triggerHz (v : VoiceId) (freq : Word16)
  /-- `GET_AMP`, format V (R84, R154). -/
  | getAmp (v : VoiceId)
  /-- `SET_BPM`, format B (R86, R192). -/
  | setBpm (bpm : Byte)
  /-- `BEAT_COMPLETE`, format G (R87, R193). -/
  | beatComplete
deriving DecidableEq, Repr

end Sys2Proof
end

