-- ==== Sys2Proof/WellFormed.lean ====
section
/-! DEFINITION. Which commands have an encoding (30_encoding.md rules R90, R91, R96). Every operand
but `mdep` has exactly the width of its field, so only `mdep` can fail to fit. -/

namespace Sys2Proof

/-- `-1024 <= mdep <= 1023` (R91): the operand fits its 11-bit two's complement field. -/
def Instr.wellFormed : Instr → Bool
  | .setup _ _ _ _ _ mdep => decide (-1024 ≤ mdep ∧ mdep ≤ 1023)
  | .triggerMidi _ _ => true
  | .retrigger _ => true
  | .triggerHz _ _ => true
  | .getAmp _ => true
  | .setBpm _ => true
  | .beatComplete => true

end Sys2Proof
end

