-- ==== Sys2Proof/Decode.lean ====
section
/-! DEFINITION. The command encoding of 30_encoding.md: fields, the total decoder with its named
rejections, the encoder, the opcode map, and the host's table-word reader. -/

namespace Sys2Proof

/-! ## Fields (rules R81 to R87) -/

/-- `w[lo + len - 1 : lo]`, read as an unsigned value (R9). -/
def field (w : Word64) (lo len : Nat) : BitVec len := w.extractLsb' lo len

/-- The voice a 2-bit `vv` selects; every index is valid (R90). -/
def voiceOfBits (b : BitVec 2) : VoiceId :=
  match b.toNat with
  | 0 => .v0
  | 1 => .v1
  | 2 => .v2
  | _ => .v3

/-- The index 0..3 of a voice, as the `vv` and `FVOICE` fields hold it. -/
def bitsOfVoice : VoiceId → BitVec 2
  | .v0 => 0
  | .v1 => 1
  | .v2 => 2
  | .v3 => 3

/-! ## Decoder (rules R90 to R94) -/

/-- Why a word is no command: the two classes of rule R92. Both raise `ILLEGAL_COMMAND`. -/
inductive IllegalWord where
  /-- Class 1: `op` = 0b000. -/
  | reservedOpcode
  /-- Class 2: a valid `op` with a nonzero reserved bit, `vv` of formats B and G included. -/
  | reservedBits
deriving DecidableEq, Repr

/-- What a 64-bit word is (R94): exactly one command, or illegal. -/
inductive Decoded where
  | command (i : Instr)
  | illegal (why : IllegalWord)
deriving DecidableEq, Repr

/-- The command `i`, if the word's reserved bits are clear (R81, R93). -/
def ifClear (reservedClear : Bool) (i : Instr) : Decoded :=
  if reservedClear then .command i else .illegal .reservedBits

/-- The total decoder (R90, R92 to R94). -/
def decode (w : Word64) : Decoded :=
  let v := voiceOfBits (field w 59 2)
  match (field w 61 3).toNat with
  | 0 => .illegal .reservedOpcode
  | 1 => .command (.setup v (field w 51 8) (field w 35 16) (field w 27 8) (field w 11 16)
            (field w 0 11).toInt)
  | 2 => ifClear (field w 7 52 == 0) (.triggerMidi v (field w 0 7))
  | 3 => ifClear (field w 0 59 == 0) (.retrigger v)
  | 4 => ifClear (field w 16 43 == 0) (.triggerHz v (field w 0 16))
  | 5 => ifClear (field w 0 59 == 0) (.getAmp v)
  | 6 => ifClear (field w 8 53 == 0) (.setBpm (field w 0 8))
  | _ => ifClear (field w 0 61 == 0) .beatComplete

/-! ## Encoder (rules R82 to R87) -/

/-- The word with `op` in [63:61], `vv` in [60:59] and a payload in [58:0] (R81). -/
def packWord (op vv payload : Nat) : Word64 := BitVec.ofNat 64 (op * 2 ^ 61 + vv * 2 ^ 59 + payload)

/-- The command word of `i`: each field at its place, reserved bits 0. An `mdep` outside its field's range
keeps its low 11 bits (R9); `Instr.wellFormed` says when it fits. -/
def encode : Instr → Word64
  | .setup v wref winc eref einc mdep =>
      packWord 0b001 (bitsOfVoice v).toNat
        (wref.toNat * 2 ^ 51 + winc.toNat * 2 ^ 35 + eref.toNat * 2 ^ 27 + einc.toNat * 2 ^ 11 +
          (BitVec.ofInt 11 mdep).toNat)
  | .triggerMidi v note => packWord 0b010 (bitsOfVoice v).toNat note.toNat
  | .retrigger v => packWord 0b011 (bitsOfVoice v).toNat 0
  | .triggerHz v freq => packWord 0b100 (bitsOfVoice v).toNat freq.toNat
  | .getAmp v => packWord 0b101 (bitsOfVoice v).toNat 0
  | .setBpm bpm => packWord 0b110 0 bpm.toNat
  | .beatComplete => packWord 0b111 0 0

/-! ## Opcode map (rule R88) -/

/-- One row of the opcode map: a word `w` selects it when `w & mask = pattern`. -/
structure OpcodeRow where
  op : BitVec 3
  pattern : Word64
  mask : Word64
deriving DecidableEq, Repr

/-- The seven valid rows of rule R88, as the map prints them. `decode` does not use them: that the two
agree is a statement. -/
def opcodeMap : List OpcodeRow :=
  [ ⟨0b001, 0x2000000000000000, 0xE000000000000000⟩,
    ⟨0b010, 0x4000000000000000, 0xE7FFFFFFFFFFFF80⟩,
    ⟨0b011, 0x6000000000000000, 0xE7FFFFFFFFFFFFFF⟩,
    ⟨0b100, 0x8000000000000000, 0xE7FFFFFFFFFF0000⟩,
    ⟨0b101, 0xA000000000000000, 0xE7FFFFFFFFFFFFFF⟩,
    ⟨0b110, 0xC000000000000000, 0xFFFFFFFFFFFFFF00⟩,
    ⟨0b111, 0xE000000000000000, 0xFFFFFFFFFFFFFFFF⟩ ]

/-- The row of the map a command belongs to. -/
def rowOf : Instr → OpcodeRow
  | .setup .. => ⟨0b001, 0x2000000000000000, 0xE000000000000000⟩
  | .triggerMidi .. => ⟨0b010, 0x4000000000000000, 0xE7FFFFFFFFFFFF80⟩
  | .retrigger _ => ⟨0b011, 0x6000000000000000, 0xE7FFFFFFFFFFFFFF⟩
  | .triggerHz .. => ⟨0b100, 0x8000000000000000, 0xE7FFFFFFFFFF0000⟩
  | .getAmp _ => ⟨0b101, 0xA000000000000000, 0xE7FFFFFFFFFFFFFF⟩
  | .setBpm _ => ⟨0b110, 0xC000000000000000, 0xFFFFFFFFFFFFFF00⟩
  | .beatComplete => ⟨0b111, 0xE000000000000000, 0xFFFFFFFFFFFFFFFF⟩

/-! ## The host's table word -/

/-- The 64-bit word of a table row given as its low `nbits` bits (every bit above is 0). -/
def tableWord (nbits w : Nat) : Word64 := BitVec.ofNat 64 (w % 2 ^ nbits)

/-- The command the decoder reads from an opcode-table word. -/
def decodeTableWord (nbits w : Nat) : Option Instr :=
  match decode (tableWord nbits w) with
  | .command i => some i
  | .illegal _ => none

end Sys2Proof
end

