-- ==== Sys2Proof/Machine/Turn.lean ====
section
/-! DEFINITION. What can happen next to the block: a turn of one of its two agents (00_scope.md rule
R12), a host access to the register window (10_state.md rule R38), or the `RESET` input. -/

namespace Sys2Proof.Machine

/-- The width of one host access to the register window. -/
inductive Width where
  | w8
  | w16
  | w32
  | w64
deriving DecidableEq, Repr, Inhabited

/-- One turn: which agent acts, and how. -/
inductive Turn where
  /-- Timebase: one cycle of the 2 MHz reference (R110). -/
  | refCycle
  /-- Timebase: the tick, if one is pending (R114). -/
  | tick
  /-- Host: a write of `data` at byte offset `off` of the window (R38, R39). -/
  | hostWrite (off : Nat) (width : Width) (data : Word64)
  /-- Host: a read at byte offset `off` of the window (R38). -/
  | hostRead (off : Nat) (width : Width)
  /-- The `RESET` input is asserted between two steps (R240, R243). -/
  | reset
deriving DecidableEq, Repr, Inhabited

end Sys2Proof.Machine
end

