-- ==== Sys2Proof/Config.lean ====
section
/-! DEFINITION. The fixed parameters of 00_scope.md rule R7 and the model's free values: constants with
no body, of which nothing can be proved but what holds whatever they are. -/

namespace Sys2Proof.Config

/-- `TICK_RATE`, ticks per second (R7). -/
def tickRate : Nat := 8000

/-- `REF_CLK`, reference cycles per second (R7). -/
def refClk : Nat := 2000000

/-- `TICK_DIV`, reference cycles per tick (R7). -/
def tickDiv : Nat := 250

/-- `ENV_DIV`, ticks per envelope update (R7). -/
def envDiv : Nat := 4

/-- `MOD_DIV`, ticks per modulation gate (R7). -/
def modDiv : Nat := 800

/-- `MIX_BIAS` (R7, R182). -/
def mixBias : Int := 127

/-- `BEAT_DIV`, quarter-beat resolution (R7). -/
def beatDiv : Nat := 4

/-- `MDEP_NEUTRAL`, "no modulation" (R7). -/
def mdepNeutral : BitVec 11 := 512

/-- FREE VALUE (notes/assumptions/1.md). The turns the outside world takes before the reference clock's next
free cycle: any finite number of them, in any order (R12, R119). -/
opaque turnsBefore : Nat → List Machine.Turn

/-- FREE VALUE (notes/assumptions/4.md). The byte of `TABLES` at an address the state's list does not
hold: `TABLES` is a launch input with no default (R8). One byte per address, constant for the run. -/
opaque tableByte : Nat → Byte

/-- FREE VALUE (notes/assumptions/7.md). What a host read returns where the spec gives no result: the
platform decides the byte lanes (R65). -/
opaque busRead : Nat → Word64

end Sys2Proof.Config
end

