-- ==== Sys2Proof/Machine/Pitch.lean ====
section
/-! DEFINITION. The defaults of the two pitch parameters of 00_scope.md rule R8. They stay two separate
operations (41_voice.md rule R156). -/

namespace Sys2Proof.Machine

/-- Entries 0..63 of the default `PITCH_TABLE` (R160). -/
def pitchRowsLow : List Word16 :=
  [67, 71, 75, 80, 84, 89, 95, 100] ++ [106, 113, 119, 126, 134, 142, 150, 159] ++
  [169, 179, 189, 201, 213, 225, 239, 253] ++ [268, 284, 301, 319, 338, 358, 379, 401] ++
  [425, 451, 477, 506, 536, 568, 601, 637] ++ [675, 715, 758, 803, 851, 901, 955, 1011] ++
  [1072, 1135, 1203, 1274, 1350, 1430, 1515, 1606] ++
  [1701, 1802, 1909, 2023, 2143, 2271, 2406, 2549]

/-- Entries 64..127 of the default `PITCH_TABLE` (R160); 120..127 have wrapped mod 2^16. -/
def pitchRowsHigh : List Word16 :=
  [2700, 2861, 3031, 3211, 3402, 3604, 3819, 4046] ++
  [4286, 4541, 4811, 5098, 5401, 5722, 6062, 6422] ++
  [6804, 7209, 7638, 8092, 8573, 9083, 9623, 10195] ++
  [10801, 11444, 12124, 12845, 13609, 14418, 15275, 16184] ++
  [17146, 18165, 19246, 20390, 21602, 22887, 24248, 25690] ++
  [27217, 28836, 30551, 32367, 34292, 36331, 38491, 40780] ++
  [43205, 45774, 48496, 51380, 54435, 57672, 61101, 64734] ++
  [3048, 7126, 11446, 16024, 20874, 26012, 31456, 37223]

/-- The default `PITCH_TABLE`, indexed by MIDI note number (R43, R160). -/
def defaultPitchTable : Vector Word16 128 :=
  ⟨(pitchRowsLow ++ pitchRowsHigh).toArray, rfl⟩

/-- The default `HZ_TO_INC` of a nonzero frequency: `floor(TICK_RATE / (f * 256)) mod 2^16` (R8, R153). -/
def defaultHzToInc (freq : Word16) : Word16 :=
  BitVec.ofNat 16 (Config.tickRate / (freq.toNat * 256))

end Sys2Proof.Machine
end

