-- ==== Sys2Proof/Machine/State.lean ====
section
/-! DEFINITION. The architectural state of the block (10_state.md), its launch inputs, the model's own
bookkeeping fields, the fault causes, and the state after reset (70_reset_and_hazards.md rule R240). -/

namespace Sys2Proof.Machine

/-- The fields of one voice (R22 to R31). -/
structure Voice where
  /-- `WPA`, wave phase accumulator (R23). -/
  wpa : Word16
  /-- `WPI`, wave phase increment (R24). -/
  wpi : Word16
  /-- `WREF`, wave table page (R25). -/
  wref : Byte
  /-- `WREF_V`, the page has been set (R25). -/
  wrefV : Bool
  /-- `EPA`, envelope phase accumulator; bit 15 is the sentinel (R26). -/
  epa : Word16
  /-- `EPI`, envelope phase increment (R27). -/
  epi : Word16
  /-- `EREF`, envelope table page (R28). -/
  eref : Byte
  /-- `EREF_V`, the page has been set (R28). -/
  erefV : Bool
  /-- `AMP`, cached amplitude, unsigned (R29). -/
  amp : Byte
  /-- `BASE`, baseline pitch (R30). -/
  base : Word16
  /-- `MDEP`, modulation depth, two's complement (R31). -/
  mdep : BitVec 11
deriving DecidableEq, Repr

/-- The voice register file: four voices that share no field (R22). -/
structure Voices where
  v0 : Voice
  v1 : Voice
  v2 : Voice
  v3 : Voice
deriving DecidableEq, Repr

/-- The causes a fault can latch (60_exceptions.md rule R211). -/
inductive Cause where
  /-- Code 1: a word that is no command (R93). -/
  | illegalCommand
  /-- Code 2: an envelope read is due with `EREF_V` = 0 (R131). -/
  | unsetEnvTable
  /-- Code 3: a wave read is due with `WREF_V` = 0 (R134). -/
  | unsetWaveTable
  /-- Code 4: `SET_BPM` with `bpm` = 0 (R192). -/
  | bpmZero
  /-- Code 5: `TRIGGER_HZ` with `freq` = 0 (R153). -/
  | freqZero
deriving DecidableEq, Repr

/-- The operation a fault is raised in: it decides `FTICK` and `FAULT_CMD` (R212). -/
inductive Operation where
  | tick
  | command (w : Word64)
deriving DecidableEq, Repr

/-- A step never ends in a fault OUTCOME: the block never stops (R120), and a fault of the spec is latched
in `STATUS` and `FAULT_CMD` as a next state (R212). The type has no constructor. -/
inductive Fault
deriving DecidableEq, Repr

/-- Why the model gives an instruction no meaning. -/
inductive Refusal where
  /-- An instruction with no meaning yet, raised by `exec` alone: safe, the run stops. No arm of `exec`
  raises it. -/
  | notModelled (mnemonic : String)
deriving DecidableEq, Repr

/-- The state of the block. -/
structure State where
  /-- `V[0]` to `V[3]` (R22). -/
  voices : Voices
  /-- `DIV_ENV`, envelope-update divider (R34). -/
  divEnv : BitVec 2
  /-- `DIV_MOD`, modulation divider, 0..799 (R34). -/
  divMod : BitVec 10
  /-- `BC_START`, countdown-start value; 0 means idle (R35). -/
  bcStart : Word32
  /-- `BC_COUNT`, current countdown (R35). -/
  bcCount : Word32
  /-- `BC_LATCH`, one-shot beat latch (R35). -/
  bcLatch : Bool
  /-- `TB_REF`, reference-cycle counter (R36). -/
  tbRef : Word16
  /-- `TB_NEXT`, next-fire threshold (R36). -/
  tbNext : Word16
  /-- `TB_PEND`, a match has happened and its tick has not run (R36). -/
  tbPend : Bool
  /-- `OUT`, duty-cycle output register (R37). -/
  out : Byte
  /-- `RESP`, result of the last completed command (R40). -/
  resp : Word16
  /-- `STATUS`, fault status (R41). -/
  status : Word16
  /-- `FAULT_CMD`, the command word that faulted (R42). -/
  faultCmd : Word64
  /-- `TABLES`, launch input: the bytes of the table store the run fixes, addresses strictly rising (R61). -/
  tables : List Host.Cell
  /-- `PITCH_TABLE`, launch input (R43). -/
  pitchTable : Vector Word16 128
  /-- `HZ_TO_INC`, launch input: frequencies whose increment differs from the default formula (R8). -/
  hzEntries : List (Word16 × Word16)
  /-- MODEL'S OWN: the turns already fixed for the outside world, oldest first. -/
  schedule : List Turn
  /-- MODEL'S OWN: how many free values have been drawn. -/
  draws : Nat
  /-- MODEL'S OWN: what the host's last read of the window returned. -/
  readData : Word64
deriving DecidableEq, Repr

/-- A voice at reset: silent, its tables unset (R22). -/
def Voice.reset : Voice where
  wpa := 0
  wpi := 0
  wref := 0
  wrefV := false
  epa := 0x8000
  epi := 0
  eref := 0
  erefV := false
  amp := 0
  base := 0
  mdep := Config.mdepNeutral

/-- The machine right after reset (R240), its launch inputs at their defaults (R8). -/
def State.reset : State where
  voices := ⟨Voice.reset, Voice.reset, Voice.reset, Voice.reset⟩
  divEnv := 0
  divMod := 0
  bcStart := 0
  bcCount := 0
  bcLatch := false
  tbRef := 0
  tbNext := 250
  tbPend := false
  out := 127
  resp := 0
  status := 0
  faultCmd := 0
  tables := []
  pitchTable := defaultPitchTable
  hzEntries := []
  schedule := []
  draws := 0
  readData := 0

end Sys2Proof.Machine
end

