-- ==== Sys2Proof/Machine/Flags.lean ====
section
/-! DEFINITION. The flags of 10_state.md rule R44 and the fields of `STATUS` (rule R41). -/

namespace Sys2Proof.Machine

/-- The end-of-note sentinel, bit 15 of an envelope accumulator (R26, R44). -/
def sentinel (epa : Word16) : Bool := epa.getLsbD 15

/-- `STATUS.FAULTED`, bit 0 (R41). -/
def statusFaulted (status : Word16) : Bool := status.getLsbD 0

/-- `STATUS.CAUSE`, bits [3:1] (R41). -/
def statusCause (status : Word16) : BitVec 3 := status.extractLsb' 1 3

/-- `STATUS.FVOICE`, bits [5:4] (R41). -/
def statusVoice (status : Word16) : BitVec 2 := status.extractLsb' 4 2

/-- `STATUS.FTICK`, bit 6 (R41). -/
def statusTick (status : Word16) : Bool := status.getLsbD 6

/-- A fault is latched and the block is halted (R213). -/
def State.faulted (s : State) : Bool := statusFaulted s.status

/-- The code of a cause in `STATUS.CAUSE` (R211). -/
def causeCode : Cause → BitVec 3
  | .illegalCommand => 1
  | .unsetEnvTable => 2
  | .unsetWaveTable => 3
  | .bpmZero => 4
  | .freqZero => 5

/-- `FTICK`: 1 if the operation is a tick (R212). -/
def operationTick : Operation → Bool
  | .tick => true
  | .command _ => false

/-- `FAULT_CMD`: the command word if the operation is a command, else 0 (R212). -/
def operationWord : Operation → Word64
  | .tick => 0
  | .command w => w

/-- `STATUS` with a fault latched: reserved [15:7], FTICK [6], FVOICE [5:4], CAUSE [3:1], FAULTED [0]
(R41, R212). -/
def faultStatus (cause : Cause) (v : VoiceId) (ftick : Bool) : Word16 :=
  0#9 ++ BitVec.ofBool ftick ++ bitsOfVoice v ++ causeCode cause ++ 1#1

/-- A 1-bit flag widened to 16 bits, `zext_16` (R10, R193). -/
def flagWord (b : Bool) : Word16 := if b then 1 else 0

end Sys2Proof.Machine
end

