-- ==== Sys2Proof/Machine/Operands.lean ====
section
/-! DEFINITION. How operands and table bytes are read as numbers (00_scope.md rules R9, R10, R16), and
the values the commands derive from their operands. -/

namespace Sys2Proof.Machine

/-- `sext_8(b)`: the byte read as a two's complement integer (R10, R64). -/
def sext8 (b : Byte) : Int := b.toInt

/-- `asr(x, n) = floor(x / 2^n)` (R10); integer division rounds down for a positive divisor. -/
def asr (x : Int) (n : Nat) : Int := x / 2 ^ n

/-- The envelope-table index `e[14:7]` (R26, R62). -/
def envIndex (e : Word16) : Byte := e.extractLsb' 7 8

/-- The wave-table index `WPA[15:8]` (R23). -/
def waveIndex (wpa : Word16) : Byte := wpa.extractLsb' 8 8

/-- `PITCH_TABLE[note]` (R43, R151). -/
def pitchInc (s : State) (note : BitVec 7) : Word16 := s.pitchTable[note.toNat]'note.isLt

/-- `HZ_TO_INC(freq) mod 2^16` of a nonzero frequency: the launch input's value, else the default
formula's (R8, R153). -/
def hzInc (s : State) (freq : Word16) : Word16 :=
  (s.hzEntries.lookup freq).getD (defaultHzToInc freq)

/-- `floor((TICK_RATE * 60) / (BEAT_DIV * bpm))` of a nonzero tempo (R192). -/
def beatStart (bpm : Byte) : Word32 :=
  BitVec.ofNat 32 (Config.tickRate * 60 / (Config.beatDiv * bpm.toNat))

end Sys2Proof.Machine
end

