-- ==== Sys2Proof/Machine/Ops.lean ====
section
/-! DEFINITION. The named operations over the state: the table store, the voice registers, the shape of a
command, raising a fault and the reset action. -/

namespace Sys2Proof.Machine

/-! ## Table store (20_memory.md) -/

/-- Canonical form of a list of cells: addresses strictly rising from `lo`, inside the 16-bit space. -/
def cellsRiseFrom : Nat → List Host.Cell → Bool
  | _, [] => true
  | lo, (a, _) :: rest => decide (lo ≤ a ∧ a < 65536) && cellsRiseFrom (a + 1) rest

/-- Canonical form of the table store. -/
def tablesWf (t : List Host.Cell) : Bool := cellsRiseFrom 0 t

/-- The byte listed at an address, if one is. -/
def readCell : List Host.Cell → Nat → Option Byte
  | [], _ => none
  | (a, b) :: rest, x => if a = x then some b else readCell rest x

/-- `MemRead(addr, 1)` (R10): the byte listed, else the launch input's free byte. It always succeeds. -/
def memRead (t : List Host.Cell) (addr : Word16) : Byte :=
  (readCell t addr.toNat).getD (Config.tableByte addr.toNat)

/-- `TableRead(page, idx)`: the byte at `{page, idx}` (R63). -/
def tableRead (t : List Host.Cell) (page idx : Byte) : Byte :=
  memRead t (BitVec.ofNat 16 (page.toNat * 256 + idx.toNat))

/-- A list of cells with one byte put in or replaced. -/
def putCell : List Host.Cell → Nat → Byte → List Host.Cell
  | [], x, b => [(x, b)]
  | (a, c) :: rest, x, b =>
    if x < a then (x, b) :: (a, c) :: rest
    else if x = a then (x, b) :: rest
    else (a, c) :: putCell rest x b

/-- The platform loads a byte into the table store before reset is released (R61, R244). No step of the
block does this (R76). -/
def loadByte (addr : Word16) (b : Byte) (s : State) : State :=
  { s with tables := putCell s.tables addr.toNat b }

/-! ## Voice registers (10_state.md rule R22) -/

/-- `V[v]`. -/
def Voices.get (vs : Voices) : VoiceId → Voice
  | .v0 => vs.v0
  | .v1 => vs.v1
  | .v2 => vs.v2
  | .v3 => vs.v3

/-- The register file with `V[v]` replaced. -/
def Voices.set (vs : Voices) (v : VoiceId) (x : Voice) : Voices :=
  match v with
  | .v0 => { vs with v0 := x }
  | .v1 => { vs with v1 := x }
  | .v2 => { vs with v2 := x }
  | .v3 => { vs with v3 := x }

/-- `V[v]` of a state. -/
def State.voice (s : State) (v : VoiceId) : Voice := s.voices.get v

/-- The state with `V[v]` replaced. -/
def setVoice (v : VoiceId) (x : Voice) (s : State) : State :=
  { s with voices := s.voices.set v x }

/-- `RESP <- r` (R40). -/
def respond (r : Word16) (s : State) : State := { s with resp := r }

/-! ## Commands and faults -/

/-- A command's body runs only while no fault is latched; a halted block ignores the command
(R95, R213). -/
def whenRunning (body : State → State) (s : State) : Host.Outcome State Fault Refusal :=
  .next (if s.faulted then s else body s)

/-- `raise Fault(cause, voice)` (R212), applied to the state the operation started from (for a tick, with
`TB_PEND` already cleared): every other write of the operation is discarded. -/
def raiseFault (cause : Cause) (v : VoiceId) (op : Operation) (s : State) : State :=
  { s with status := faultStatus cause v (operationTick op), faultCmd := operationWord op }

/-- The reset action (R240): every register takes its reset value. The launch inputs (R241) and the
model's own fields stay. -/
def resetAction (s : State) : State :=
  { State.reset with
    tables := s.tables
    pitchTable := s.pitchTable
    hzEntries := s.hzEntries
    schedule := s.schedule
    draws := s.draws
    readData := s.readData }

end Sys2Proof.Machine
end

