-- ==== Sys2Proof/Machine/BeatClock.lean ====
section
/-! DEFINITION. The beat clock: its part of the tick and its two commands (43_beatclock.md). -/

namespace Sys2Proof.Machine

/-- `BeatTick()` (R190). -/
def beatTick (s : State) : State :=
  if s.bcStart = 0 then s
  else if s.bcCount - 1 = 0 then { s with bcCount := s.bcStart, bcLatch := true }
  else { s with bcCount := s.bcCount - 1 }

/-- `SET_BPM` (R192): `bpm` = 0 raises `BPM_ZERO`. -/
def execSetBpm (bpm : Byte) (s : State) : Host.Outcome State Fault Refusal :=
  whenRunning (fun s =>
    if bpm = 0 then raiseFault .bpmZero .v0 (.command (encode (.setBpm bpm))) s
    else respond 0
      { s with bcStart := beatStart bpm, bcCount := beatStart bpm, bcLatch := false }) s

/-- `BEAT_COMPLETE` (R193). -/
def execBeatComplete (s : State) : Host.Outcome State Fault Refusal :=
  whenRunning (fun s => respond (flagWord s.bcLatch) { s with bcLatch := false }) s

end Sys2Proof.Machine
end

