-- ==== Sys2Proof/Machine/VoiceCommands.lean ====
section
/-! DEFINITION. The voice commands (41_voice.md rules R150 to R154). -/

namespace Sys2Proof.Machine

/-- `WPI <- inc; BASE <- inc; EPA <- 0` on `V[v]`: what both pitched triggers write (R151, R153). -/
def startNote (v : VoiceId) (inc : Word16) (s : State) : State :=
  setVoice v { s.voice v with wpi := inc, base := inc, epa := 0 } s

/-- `SETUP` (R150). -/
def execSetup (v : VoiceId) (wref : Byte) (winc : Word16) (eref : Byte) (einc : Word16) (mdep : Int)
    (s : State) : Host.Outcome State Fault Refusal :=
  whenRunning (fun s => respond 0 (setVoice v
    { s.voice v with
      wref := wref, wrefV := true
      wpi := winc, base := winc
      eref := eref, erefV := true
      epi := einc
      mdep := BitVec.ofInt 11 mdep } s)) s

/-- `TRIGGER_MIDI` (R151). -/
def execTriggerMidi (v : VoiceId) (note : BitVec 7) (s : State) : Host.Outcome State Fault Refusal :=
  whenRunning (fun s => respond 0 (startNote v (pitchInc s note) s)) s

/-- `RETRIGGER` (R152). -/
def execRetrigger (v : VoiceId) (s : State) : Host.Outcome State Fault Refusal :=
  whenRunning (fun s => respond 0 (setVoice v { s.voice v with epa := 0 } s)) s

/-- `TRIGGER_HZ` (R153): `freq` = 0 raises `FREQ_ZERO`. -/
def execTriggerHz (v : VoiceId) (freq : Word16) (s : State) : Host.Outcome State Fault Refusal :=
  whenRunning (fun s =>
    if freq = 0 then raiseFault .freqZero v (.command (encode (.triggerHz v freq))) s
    else respond 0 (startNote v (hzInc s freq) s)) s

/-- `GET_AMP` (R154): `RESP <- zext_16(V[v].AMP)`. -/
def execGetAmp (v : VoiceId) (s : State) : Host.Outcome State Fault Refusal :=
  whenRunning (fun s => respond ((s.voice v).amp.setWidth 16) s) s

end Sys2Proof.Machine
end

