-- ==== Sys2Proof/Machine/Dispatch.lean ====
section
/-! DEFINITION. One arm per command: which meaning it has. -/

namespace Sys2Proof.Machine

def exec (i : Instr) (s : State) : Host.Outcome State Fault Refusal :=
  match i with
  | .setup v wref winc eref einc mdep => Sys2Proof.Machine.execSetup v wref winc eref einc mdep s
  | .triggerMidi v note => Sys2Proof.Machine.execTriggerMidi v note s
  | .retrigger v => Sys2Proof.Machine.execRetrigger v s
  | .triggerHz v freq => Sys2Proof.Machine.execTriggerHz v freq s
  | .getAmp v => Sys2Proof.Machine.execGetAmp v s
  | .setBpm bpm => Sys2Proof.Machine.execSetBpm bpm s
  | .beatComplete => Sys2Proof.Machine.execBeatComplete s

end Sys2Proof.Machine
end

