-- ==== Sys2Proof/Machine/Sample.lean ====
section
/-! DEFINITION. Sample production: the per-voice part of the tick (41_voice.md rules R130 to R134) and
the mixer (42_mixer.md rule R180). -/

namespace Sys2Proof.Machine

/-- Step 1, on an envelope-update tick (R131). `none` is `UNSET_ENV_TABLE`. -/
def envelopeStep (t : List Host.Cell) (x : Voice) : Option Voice :=
  if sentinel x.epa then some { x with amp := 0 }
  else if x.erefV then
    let e := x.epa + x.epi
    some { x with epa := e, amp := if sentinel e then 0 else tableRead t x.eref (envIndex e) }
  else none

/-- Step 2, on a modulation tick: a documented no-op (R133). -/
def modulationHook (x : Voice) : Voice := x

/-- Step 3, on every tick (R132). -/
def oscillatorStep (x : Voice) : Voice := { x with wpa := x.wpa + x.wpi }

/-- Steps 4 and 5 (R134). `none` is `UNSET_WAVE_TABLE`. -/
def sampleStep (t : List Host.Cell) (x : Voice) : Option Int :=
  if x.amp = 0 then some 0
  else if x.wrefV then some (asr (sext8 (tableRead t x.wref (waveIndex x.wpa)) * x.amp.toNat) 8)
  else none

/-- What one voice's part of a tick gives: its new fields and its sample, or a fault. -/
inductive VoiceResult where
  | sample (x : Voice) (value : Int)
  | fault (cause : Cause)
deriving DecidableEq, Repr

/-- `VoiceSample(v, updEnv, applyMod)` (R130). -/
def voiceSample (t : List Host.Cell) (updEnv applyMod : Bool) (x : Voice) : VoiceResult :=
  match if updEnv then envelopeStep t x else some x with
  | none => .fault .unsetEnvTable
  | some x1 =>
    let x2 := oscillatorStep (if applyMod then modulationHook x1 else x1)
    match sampleStep t x2 with
    | none => .fault .unsetWaveTable
    | some value => .sample x2 value

/-- `Mix(s0, s1, s2, s3)` (R180): exact sums (R181), floor division by 4, bias, stored mod 2^8. -/
def mix (s0 s1 s2 s3 : Int) : Byte :=
  BitVec.ofInt 8 (Config.mixBias + asr ((s0 + s1) + (s2 + s3)) 2)

/-- What the four voices and the mixer give on one tick. -/
inductive EngineResult where
  | output (vs : Voices) (out : Byte)
  | fault (cause : Cause) (v : VoiceId)
deriving DecidableEq, Repr

/-- The voices in order 0, 1, 2, 3, then the mixer; the first voice that faults decides (R115, R215). -/
def runEngine (t : List Host.Cell) (updEnv applyMod : Bool) (vs : Voices) : EngineResult :=
  match voiceSample t updEnv applyMod vs.v0 with
  | .fault c => .fault c .v0
  | .sample x0 s0 =>
    match voiceSample t updEnv applyMod vs.v1 with
    | .fault c => .fault c .v1
    | .sample x1 s1 =>
      match voiceSample t updEnv applyMod vs.v2 with
      | .fault c => .fault c .v2
      | .sample x2 s2 =>
        match voiceSample t updEnv applyMod vs.v3 with
        | .fault c => .fault c .v3
        | .sample x3 s3 => .output ⟨x0, x1, x2, x3⟩ (mix s0 s1 s2 s3)

end Sys2Proof.Machine
end

