-- ==== Sys2Proof/Machine/Timebase.lean ====
section
/-! DEFINITION. The timebase, the control-rate dividers and the tick (40_timebase.md). -/

namespace Sys2Proof.Machine

/-- The next reference cycle reaches the threshold (R110). -/
def matchIsNext (s : State) : Bool := s.tbRef + 1 == s.tbNext

/-- `RefCycle()` (R110). It runs whether or not a fault is latched. -/
def refCycle (s : State) : State :=
  if matchIsNext s then
    { s with
      tbRef := s.tbRef + 1
      tbNext := s.tbNext + BitVec.ofNat 16 Config.tickDiv
      tbPend := true }
  else { s with tbRef := s.tbRef + 1 }

/-- The pending tick must run before the next reference cycle, which would match (R116). -/
def tickIsDue (s : State) : Bool := s.tbPend && matchIsNext s

/-- Both dividers take one step (R112). -/
def stepDividers (s : State) : State :=
  { s with
    divEnv := BitVec.ofNat 2 ((s.divEnv.toNat + 1) % Config.envDiv)
    divMod := BitVec.ofNat 10 ((s.divMod.toNat + 1) % Config.modDiv) }

/-- The part of the tick that a fault discards: dividers, voices, mixer, beat clock (R114, R115). -/
def tickBody (s : State) : State :=
  let s1 := stepDividers s
  match runEngine s1.tables (s1.divEnv == 0) (s1.divMod == 0) s1.voices with
  | .fault cause v => raiseFault cause v .tick s
  | .output vs out => beatTick { s1 with voices := vs, out := out }

/-- `Tick()` (R114). -/
def tick (s : State) : State :=
  let s0 := { s with tbPend := false }
  if s0.faulted then s0 else tickBody s0

end Sys2Proof.Machine
end

