-- ==== Sys2Proof/Machine/Window.lean ====
section
/-! DEFINITION. The host register window (10_state.md rules R38 to R42), the command step (30_encoding.md
rule R95), and what each turn does. -/

namespace Sys2Proof.Machine

/-- The command step (R95): ignored while a fault is latched; an illegal word raises `ILLEGAL_COMMAND`
before any state changes (R93); else the command runs. -/
def issueCommand (w : Word64) (s : State) : Host.Outcome State Fault Refusal :=
  if s.faulted then .next s
  else
    match decode w with
    | .illegal _ => .next (raiseFault .illegalCommand .v0 (.command w) s)
    | .command i => exec i s

/-- Only a write of all 64 bits at offset 0 issues a command; every other write is ignored (R38). -/
def isCommandWrite (off : Nat) (width : Width) : Bool := off == 0 && width == .w64

/-- A host write of the window (R38, R39). -/
def hostWrite (off : Nat) (width : Width) (data : Word64) (s : State) :
    Host.Outcome State Fault Refusal :=
  if isCommandWrite off width then issueCommand data s else .next s

/-- How many bytes an access covers. -/
def widthBytes : Width → Nat
  | .w8 => 1
  | .w16 => 2
  | .w32 => 4
  | .w64 => 8

/-- The access lies inside `CMD` or inside the reserved bytes 0x0C to 0x0F, which read 0 (R38). -/
def readsZero (off : Nat) (width : Width) : Bool :=
  decide (off + widthBytes width ≤ 8 ∨ (12 ≤ off ∧ off + widthBytes width ≤ 16))

/-- What the window gives for a read, where the spec gives it (R38, R67): `RESP`, `STATUS`, `FAULT_CMD` at
their own offsets and widths, and 0 where it reads 0. -/
def windowRead (off : Nat) (width : Width) (s : State) : Option Word64 :=
  if off = 0x08 ∧ width = .w16 then some (s.resp.setWidth 64)
  else if off = 0x0A ∧ width = .w16 then some (s.status.setWidth 64)
  else if off = 0x10 ∧ width = .w64 then some s.faultCmd
  else if readsZero off width then some 0
  else none

/-- A value cut to the low bits an access of this width carries. -/
def cutToWidth (width : Width) (x : Word64) : Word64 :=
  BitVec.ofNat 64 (x.toNat % 2 ^ (8 * widthBytes width))

/-- A host read of the window: no side effect on the block (R38, R68). Where the spec gives no result, the
value is free (R65). -/
def hostRead (off : Nat) (width : Width) (s : State) : State :=
  match windowRead off width s with
  | some x => { s with readData := x }
  | none => { s with readData := cutToWidth width (Config.busRead s.draws), draws := s.draws + 1 }

/-- A stretch of free turns: what the outside world does, then one reference cycle. The Timebase is weakly
fair (R119): the stretch is finite, so a reference cycle always comes. -/
def freeTurns (k : Nat) : List Turn := Config.turnsBefore k ++ [.refCycle]

/-- The turn that comes next: the schedule's first, else the first of a fresh free stretch (R12, R119). -/
def nextTurn (s : State) : Turn :=
  match s.schedule with
  | turn :: _ => turn
  | [] => (freeTurns s.draws).headD .refCycle

/-- The state with that turn taken from the schedule; a fresh free stretch leaves the rest of itself there. -/
def popTurn (s : State) : State :=
  match s.schedule with
  | _ :: rest => { s with schedule := rest }
  | [] => { s with schedule := (freeTurns s.draws).tail, draws := s.draws + 1 }

/-- A reference cycle. Where it would match while a tick is pending, that tick runs first and the cycle
stays at the head of the schedule (R116). -/
def refCycleTurn (s : State) : State :=
  if tickIsDue s then { tick s with schedule := .refCycle :: s.schedule } else refCycle s

/-- A tick turn: enabled when `TB_PEND` = 1 (R114); else the Timebase has nothing to run. -/
def tickTurn (s : State) : State := if s.tbPend then tick s else s

/-- What a turn does to the state it has been taken from. -/
def runTurn (turn : Turn) (s : State) : Host.Outcome State Fault Refusal :=
  match turn with
  | .refCycle => .next (refCycleTurn s)
  | .tick => .next (tickTurn s)
  | .hostWrite off width data => hostWrite off width data s
  | .hostRead off width => .next (hostRead off width s)
  | .reset => .next (resetAction s)

/-- A state whose next turn is the host's write of a word to `CMD`. -/
def placeCommand (w : Word64) (s : State) : State :=
  { s with schedule := .hostWrite 0 .w64 w :: s.schedule }

end Sys2Proof.Machine
end

