-- ==== Sys2Proof/Machine/Step.lean ====
section
/-! DEFINITION. One step of the block: the next turn runs (00_scope.md rules R11, R12). -/

namespace Sys2Proof.Machine

/-- One atomic step. -/
def step (s : State) : Host.Outcome State Fault Refusal := runTurn (nextTurn s) (popTurn s)

/-- `s` with the command of an opcode-table word as the host's next write of `CMD`: the block fetches no
instructions (R21), a command comes from the host (R39). -/
def State.withFetchWord (s : State) (nbits w : Nat) : State := placeCommand (tableWord nbits w) s

end Sys2Proof.Machine
end

