-- ==== Sys2Proof/Machine/Assembler.lean ====
section
/-! DEFINITION. The host's side of the command set: the assembler's operand check and pseudo-instructions
(30_encoding.md rules R96, R97) and the suggested conversions of 41_voice.md rule R161. No step of the
block uses this file. -/

namespace Sys2Proof.Machine

/-- A non-negative quantity the host writes in Hz or in seconds, as a quotient of two numbers. -/
structure Quantity where
  num : Nat
  den : Nat
deriving DecidableEq, Repr

/-- An assembly line with its operands as written (R96, R97), before any range check. -/
inductive AsmLine where
  | setup (v wave : Nat) (winc env einc : Nat) (mdep : Int)
  | triggerMidi (v note : Nat)
  | retrigger (v : Nat)
  | triggerHz (v freq : Nat)
  | getAmp (v : Nat)
  | setBpm (bpm : Nat)
  | beatComplete
  /-- Pseudo-instruction `TRIGGER vN`. -/
  | trigger (v : Nat)
  /-- Pseudo-instruction `SETUP_HZ`. -/
  | setupHz (v wave : Nat) (hz : Quantity) (env : Nat) (secs : Quantity) (mdep : Int)
  /-- Directive `.word`: the 64-bit value as it stands. -/
  | word (w : Nat)
deriving DecidableEq, Repr

/-- `a / b` rounded to the nearest integer, a half upward (DESIGN CHOICE: R161 does not say which way a
half rounds; notes/assumptions/16.md). -/
def roundQuotient (a b : Nat) : Nat := (2 * a + b) / (2 * b)

/-- `HOST_PITCH_INC(f_Hz) = round(f_Hz * 65536 / TICK_RATE) mod 2^16` (R161), of a quantity with a nonzero
denominator. -/
def hostPitchInc (hz : Quantity) : Option Word16 :=
  if hz.den = 0 then none
  else some (BitVec.ofNat 16 (roundQuotient (hz.num * 65536) (hz.den * Config.tickRate)))

/-- `HOST_LEN_INC(s) = min(65535, max(1, round(32768 / (s * TICK_RATE / ENV_DIV))))` (R161), of a positive
length. -/
def hostLenInc (secs : Quantity) : Option Word16 :=
  if secs.num = 0 ∨ secs.den = 0 then none
  else some (BitVec.ofNat 16 (min 65535 (max 1
    (roundQuotient (32768 * secs.den * Config.envDiv) (secs.num * Config.tickRate)))))

/-- The operand, if it fits an unsigned field of `n` bits (R96). -/
def fits (n x : Nat) : Option (BitVec n) := if x < 2 ^ n then some (BitVec.ofNat n x) else none

/-- The voice `vN`, if N is 0..3 (R96). -/
def asmVoice (v : Nat) : Option VoiceId := (fits 2 v).map voiceOfBits

/-- `SETUP`, if every operand fits and `mdep` is well formed (R91, R96). -/
def asmSetup (v wave : Nat) (winc : Option Word16) (env : Nat) (einc : Option Word16) (mdep : Int) :
    Option Word64 :=
  match asmVoice v, fits 8 wave, winc, fits 8 env, einc with
  | some v, some wref, some winc, some eref, some einc =>
    let i : Instr := .setup v wref winc eref einc mdep
    if i.wellFormed then some (encode i) else none
  | _, _, _, _, _ => none

/-- The word a line assembles to, or `none` where an operand does not fit its field. `bpm` = 0 and
`freq` = 0 encode (R96). -/
def assemble : AsmLine → Option Word64
  | .setup v wave winc env einc mdep => asmSetup v wave (fits 16 winc) env (fits 16 einc) mdep
  | .triggerMidi v note =>
    match asmVoice v, fits 7 note with
    | some v, some note => some (encode (.triggerMidi v note))
    | _, _ => none
  | .retrigger v => (asmVoice v).map fun v => encode (.retrigger v)
  | .triggerHz v freq =>
    match asmVoice v, fits 16 freq with
    | some v, some freq => some (encode (.triggerHz v freq))
    | _, _ => none
  | .getAmp v => (asmVoice v).map fun v => encode (.getAmp v)
  | .setBpm bpm => (fits 8 bpm).map fun bpm => encode (.setBpm bpm)
  | .beatComplete => some (encode .beatComplete)
  | .trigger v => (asmVoice v).map fun v => encode (.retrigger v)
  | .setupHz v wave hz env secs mdep =>
    asmSetup v wave (hostPitchInc hz) env (hostLenInc secs) mdep
  | .word w => fits 64 w

end Sys2Proof.Machine
end

