-- ==== Sys2Proof/Safety.lean ====
section
/-! DEFINITION. What counts as a sound state and a safe run, in the terms the statements use: the
invariants of the block, runs of ticks and reference cycles, and the values every register has at reset. -/

namespace Sys2Proof.Machine

/-! ## Invariants -/

/-- `EPA[15] = 1` implies `AMP = 0` (R32). -/
def sentinelInv (x : Voice) : Prop := sentinel x.epa = true → x.amp = 0

/-- Only `SETUP` sets the two valid bits, both at once, and a nonzero amplitude needs an envelope read
(R134). -/
def tablesSetInv (x : Voice) : Prop := x.erefV = x.wrefV ∧ (x.amp ≠ 0 → x.wrefV = true)

/-- Every operation that writes `WPI` writes the same value to `BASE` (R30). -/
def baseInv (x : Voice) : Prop := x.base = x.wpi

/-- The invariant of one voice. -/
def voiceInv (x : Voice) : Prop := sentinelInv x ∧ tablesSetInv x ∧ baseInv x

/-- `BC_START = BC_COUNT = 0` before any `SET_BPM`, else `1 <= BC_COUNT <= BC_START` (R194); an idle clock
has latched no beat (R193). -/
def beatInv (s : State) : Prop :=
  (s.bcStart = 0 ∧ s.bcCount = 0 ∧ s.bcLatch = false) ∨
  (1 ≤ s.bcCount.toNat ∧ s.bcCount.toNat ≤ s.bcStart.toNat)

/-- `DIV_MOD` is in 0..799 (R34), and the two dividers step together (R112). -/
def dividerInv (s : State) : Prop :=
  s.divMod.toNat < 800 ∧ s.divEnv.toNat = s.divMod.toNat % 4

/-- The threshold lies 1 to 250 reference cycles ahead of the counter (R110, R111). -/
def timebaseInv (s : State) : Prop :=
  1 ≤ (s.tbNext - s.tbRef).toNat ∧ (s.tbNext - s.tbRef).toNat ≤ 250

/-- The fault record is one that R211's table gives, written as bits of R41: none, `ILLEGAL_COMMAND` with
an illegal word, `UNSET_ENV_TABLE` of a tick in a voice, `BPM_ZERO`, or `FREQ_ZERO` in a voice. -/
def faultRecordInv (s : State) : Prop :=
  (s.status = 0 ∧ s.faultCmd = 0) ∨
  (s.status = 0x0003 ∧ ∃ why, decode s.faultCmd = .illegal why) ∨
  (∃ v, s.status = 0x0045 + (bitsOfVoice v).setWidth 16 * 16 ∧ s.faultCmd = 0) ∨
  (s.status = 0x0009 ∧ s.faultCmd = 0xC000000000000000) ∨
  (∃ v, s.status = 0x000B + (bitsOfVoice v).setWidth 16 * 16 ∧
    decode s.faultCmd = .command (.triggerHz v 0))

/-- The invariant of the block. Each step keeps it, from any state that has it. -/
structure BlockInv (s : State) : Prop where
  voices : ∀ v, voiceInv (s.voice v)
  beat : beatInv s
  dividers : dividerInv s
  timebase : timebaseInv s
  fault : faultRecordInv s
  tables : tablesWf s.tables = true

/-! ## Runs -/

/-- `n` ticks with no command between them (R97's `TICK n`). -/
def ticks : Nat → State → State
  | 0, s => s
  | n + 1, s => tick (ticks n s)

/-- `n` reference cycles with nothing between them. -/
def refCycles : Nat → State → State
  | 0, s => s
  | n + 1, s => refCycle (refCycles n s)

/-- The beat clock's part of `n` ticks. -/
def beatTicks : Nat → State → State
  | 0, s => s
  | n + 1, s => beatTick (beatTicks n s)

/-- The next turn of `s` is a host write that issues the command word `w`. -/
def issues (s : State) (w : Word64) : Prop := nextTurn s = .hostWrite 0 .w64 w

/-- The next step of `s` runs a tick: its turn is the tick, or a reference cycle that waits for it (R116). -/
def runsTick (s : State) : Prop :=
  s.tbPend = true ∧ (nextTurn s = .tick ∨ (nextTurn s = .refCycle ∧ matchIsNext s = true))

/-- The row of the opcode map (R88) that the word's opcode names accepts the word: `Legal(w)` (R93). -/
def legalWord (w : Word64) : Prop :=
  ∃ row ∈ opcodeMap, row.op.toNat = w.toNat / 2 ^ 61 ∧ w &&& row.mask = row.pattern

/-- The voice a voice command names (R81). -/
def voiceOf : Instr → Option VoiceId
  | .setup v _ _ _ _ _ => some v
  | .triggerMidi v _ => some v
  | .retrigger v => some v
  | .triggerHz v _ => some v
  | .getAmp v => some v
  | .setBpm _ => none
  | .beatComplete => none

/-- The command restarts the note of `v`: the three triggers (R26). -/
def triggers (v : VoiceId) (i : Instr) : Prop :=
  (∃ note, i = .triggerMidi v note) ∨ i = .retrigger v ∨ (∃ freq, i = .triggerHz v freq)

/-- `TABLES[page * 256 + idx]` with the address computed on numbers (R63). -/
def tableByteAt (t : List Host.Cell) (page idx : Nat) : Byte := memRead t (BitVec.ofNat 16 (page * 256 + idx))

/-! ## Reset -/

/-- A voice has the reset values of R22. -/
def voiceAtReset (x : Voice) : Prop :=
  x.wpa = 0 ∧ x.wpi = 0 ∧ x.wref = 0 ∧ x.wrefV = false ∧ x.epa = 0x8000 ∧ x.epi = 0 ∧ x.eref = 0 ∧
  x.erefV = false ∧ x.amp = 0 ∧ x.base = 0 ∧ x.mdep = 512

/-- Every register has the reset value 10_state.md lists for it (R22, R34 to R38, R41, R42, R240). -/
def registersAtReset (s : State) : Prop :=
  (∀ v, voiceAtReset (s.voice v)) ∧ s.divEnv = 0 ∧ s.divMod = 0 ∧
  s.bcStart = 0 ∧ s.bcCount = 0 ∧ s.bcLatch = false ∧
  s.tbRef = 0 ∧ s.tbNext = 250 ∧ s.tbPend = false ∧
  s.out = 127 ∧ s.resp = 0 ∧ s.status = 0 ∧ s.faultCmd = 0

/-! ## Hidden fields -/

/-- A voice with `BASE` and `MDEP`, which nothing reads (R30, R31), blotted out. -/
def blotVoice (x : Voice) : Voice := { x with base := 0, mdep := 0 }

/-- A state with `BASE` and `MDEP` of every voice blotted out. -/
def blot (s : State) : State :=
  { s with voices :=
    ⟨blotVoice s.voices.v0, blotVoice s.voices.v1, blotVoice s.voices.v2, blotVoice s.voices.v3⟩ }

end Sys2Proof.Machine
end

