-- ==== Sys2Proof/Certificates/Slice0/Obligations.lean ====
section
/-! DEFINITION. The statements for the provers, each about every state unless it names a premise. -/

open Sys2Proof Sys2Proof.Machine

/-! ## Encoding (30_encoding.md) -/

/-- The words of 30_encoding.md section 12 and 95_test_vectors.md L2.1 decode as listed there. -/
def Obligations.SpecWordsDecodeAsListed : Prop :=
  decode 0x2008080010040200 = .command (.setup .v0 1 0x0100 2 0x0080 512) ∧
  decode 0x288070A100008600 = .command (.setup .v1 0x10 3604 0x20 16 (-512)) ∧
  decode 0x2000000000000400 = .command (.setup .v0 0 0 0 0 (-1024)) ∧
  decode 0x500000000000007F = .command (.triggerMidi .v2 127) ∧
  decode 0x6800000000000000 = .command (.retrigger .v1) ∧
  decode 0x98000000000001B8 = .command (.triggerHz .v3 440) ∧
  decode 0xB000000000000000 = .command (.getAmp .v2) ∧
  decode 0xC00000000000003C = .command (.setBpm 60) ∧
  decode 0xE000000000000000 = .command .beatComplete ∧
  decode 0x0000000000000000 = .illegal .reservedOpcode ∧
  decode 0x4000000000000080 = .illegal .reservedBits ∧
  decode 0xC80000000000003C = .illegal .reservedBits ∧
  decode 0xE800000000000000 = .illegal .reservedBits

/-- Rules R82 to R85 and R87, each field as a number: where its bits stand and what they read as, and the
reserved bits of each format, which must be 0. One clause per opcode. -/
def Obligations.FormatsDecodeFieldByField : Prop :=
  ∀ (w : Word64) (v : VoiceId), (bitsOfVoice v).toNat = w.toNat / 2 ^ 59 % 4 →
    (w.toNat / 2 ^ 61 = 1 → ∃ (wref : Byte) (winc : Word16) (eref : Byte) (einc : Word16),
      decode w = .command (.setup v wref winc eref einc
        (if w.toNat % 2 ^ 11 < 1024 then ((w.toNat % 2 ^ 11 : Nat) : Int)
         else ((w.toNat % 2 ^ 11 : Nat) : Int) - 2048)) ∧
      wref.toNat = w.toNat / 2 ^ 51 % 2 ^ 8 ∧ winc.toNat = w.toNat / 2 ^ 35 % 2 ^ 16 ∧
      eref.toNat = w.toNat / 2 ^ 27 % 2 ^ 8 ∧ einc.toNat = w.toNat / 2 ^ 11 % 2 ^ 16) ∧
    (w.toNat / 2 ^ 61 = 2 →
      if w.toNat / 2 ^ 7 % 2 ^ 52 = 0 then
        ∃ note : BitVec 7, decode w = .command (.triggerMidi v note) ∧ note.toNat = w.toNat % 2 ^ 7
      else decode w = .illegal .reservedBits) ∧
    (w.toNat / 2 ^ 61 = 3 →
      if w.toNat % 2 ^ 59 = 0 then decode w = .command (.retrigger v)
      else decode w = .illegal .reservedBits) ∧
    (w.toNat / 2 ^ 61 = 4 →
      if w.toNat / 2 ^ 16 % 2 ^ 43 = 0 then
        ∃ freq : Word16, decode w = .command (.triggerHz v freq) ∧ freq.toNat = w.toNat % 2 ^ 16
      else decode w = .illegal .reservedBits) ∧
    (w.toNat / 2 ^ 61 = 5 →
      if w.toNat % 2 ^ 59 = 0 then decode w = .command (.getAmp v)
      else decode w = .illegal .reservedBits) ∧
    (w.toNat / 2 ^ 61 = 6 →
      if w.toNat / 2 ^ 8 % 2 ^ 53 = 0 then
        ∃ bpm : Byte, decode w = .command (.setBpm bpm) ∧ bpm.toNat = w.toNat % 2 ^ 8
      else decode w = .illegal .reservedBits) ∧
    (w.toNat / 2 ^ 61 = 7 →
      if w.toNat % 2 ^ 61 = 0 then decode w = .command .beatComplete
      else decode w = .illegal .reservedBits)

/-- Decoding the word of any well-formed command gives the command back, every operand at every value its
field admits. -/
def Obligations.DecodeAfterEncodeIsIdentity : Prop :=
  ∀ i : Instr, i.wellFormed = true → decode (encode i) = .command i

/-- Each legal word is the word of the one command it decodes to, and that command is well formed. -/
def Obligations.EncodeAfterDecodeIsIdentity : Prop :=
  ∀ (w : Word64) (i : Instr), decode w = .command i → encode i = w ∧ i.wellFormed = true

/-- Rule R93: `Legal(w)` by the mask and match of the opcode's row; a word that is not legal is rejected
before any state changes, with `ILLEGAL_COMMAND` and voice 0 (`STATUS` = 0x0003). -/
def Obligations.IllegalWordsAreThoseTheOpcodeMapRejects : Prop :=
  ∀ w : Word64,
    ((∃ i, decode w = .command i) ↔ legalWord w) ∧
    (∀ s : State, ¬ legalWord w → issues s w → s.faulted = false →
      step s = .next { popTurn s with status := 0x0003, faultCmd := w })

/-- The rows of the opcode map do not overlap, and a decoded word selects the row of its command (R88). -/
def Obligations.OpcodeRowsSelectOneCommand : Prop :=
  ∀ w : Word64,
    (∀ r ∈ opcodeMap, ∀ r' ∈ opcodeMap,
      w &&& r.mask = r.pattern → w &&& r'.mask = r'.pattern → r = r') ∧
    (∀ i, decode w = .command i → rowOf i ∈ opcodeMap ∧ w &&& (rowOf i).mask = (rowOf i).pattern)

/-- The assembler takes exactly the operands that fit their fields (R96), `bpm` = 0 and `freq` = 0
included, and what it gives decodes to the command written. One clause per line of R96 and R97; the two
host-side functions of `SETUP_HZ` stand in their clause by name, whatever they compute. -/
def Obligations.AssemblerTakesExactlyWhatFits : Prop :=
  (∀ (v wave winc env einc : Nat) (mdep : Int),
    if v < 4 ∧ wave < 256 ∧ winc < 65536 ∧ env < 256 ∧ einc < 65536 ∧ -1024 ≤ mdep ∧ mdep ≤ 1023 then
      ∃ w u, assemble (.setup v wave winc env einc mdep) = some w ∧ (bitsOfVoice u).toNat = v ∧
        decode w = .command (.setup u (BitVec.ofNat 8 wave) (BitVec.ofNat 16 winc) (BitVec.ofNat 8 env)
          (BitVec.ofNat 16 einc) mdep)
    else assemble (.setup v wave winc env einc mdep) = none) ∧
  (∀ v note : Nat, if v < 4 ∧ note < 128 then ∃ w u, assemble (.triggerMidi v note) = some w ∧
      (bitsOfVoice u).toNat = v ∧ decode w = .command (.triggerMidi u (BitVec.ofNat 7 note))
    else assemble (.triggerMidi v note) = none) ∧
  (∀ v : Nat, if v < 4 then ∃ w u, assemble (.retrigger v) = some w ∧
      (bitsOfVoice u).toNat = v ∧ decode w = .command (.retrigger u)
    else assemble (.retrigger v) = none) ∧
  (∀ v freq : Nat, if v < 4 ∧ freq < 65536 then ∃ w u, assemble (.triggerHz v freq) = some w ∧
      (bitsOfVoice u).toNat = v ∧ decode w = .command (.triggerHz u (BitVec.ofNat 16 freq))
    else assemble (.triggerHz v freq) = none) ∧
  (∀ v : Nat, if v < 4 then ∃ w u, assemble (.getAmp v) = some w ∧
      (bitsOfVoice u).toNat = v ∧ decode w = .command (.getAmp u)
    else assemble (.getAmp v) = none) ∧
  (∀ bpm : Nat, if bpm < 256 then ∃ w, assemble (.setBpm bpm) = some w ∧
      decode w = .command (.setBpm (BitVec.ofNat 8 bpm))
    else assemble (.setBpm bpm) = none) ∧
  (∃ w, assemble .beatComplete = some w ∧ decode w = .command .beatComplete) ∧
  (∀ v : Nat, assemble (.trigger v) = assemble (.retrigger v)) ∧
  (∀ (v wave env : Nat) (hz secs : Quantity) (mdep : Int) (winc einc : Word16),
    hostPitchInc hz = some winc → hostLenInc secs = some einc →
    assemble (.setupHz v wave hz env secs mdep) =
      assemble (.setup v wave winc.toNat env einc.toNat mdep)) ∧
  (∀ n : Nat, assemble (.word n) = if n < 2 ^ 64 then some (BitVec.ofNat 64 n) else none)

/-! ## The step and the host window -/

/-- A host write of a legal word makes the step the meaning of the decoded command, on the state the turn
was taken from; taking a turn writes only the model's `schedule` and `draws`. -/
def Obligations.StepRunsTheDecodedCommand : Prop :=
  (∀ (s : State) (w : Word64) (i : Instr), issues s w → s.faulted = false → decode w = .command i →
    step s = exec i (popTurn s) ∧
    popTurn s = { s with schedule := (popTurn s).schedule, draws := (popTurn s).draws }) ∧
  (∀ (s : State) (w : Word64) (i : Instr), s.faulted = false → decode w = .command i →
    step (s.withFetchWord 64 w.toNat) = exec i s)

/-- MODEL'S CHOICE (notes/assumptions/1.md): the schedule can name any turn as the next one, so every
order of ticks and host steps that R12 and R216 ask for is a run of the model. -/
def Obligations.AnyTurnMayComeNext : Prop :=
  ∀ (s : State) (turn : Turn), step { s with schedule := turn :: s.schedule } = runTurn turn s

/-- The block never stops: each step gives a next state (R120). -/
def Obligations.EveryStepGivesANextState : Prop := ∀ s : State, ∃ t, step s = .next t

/-- Rule R38, the register window: which write issues a command, which writes are ignored, what each
register reads as at its offset and width, that such a read has no side effect on the block, and the reset
column. -/
def Obligations.HostWindowFollowsTheMap : Prop :=
  (∀ (s : State) (off : Nat) (width : Width) (data : Word64),
    nextTurn s = .hostWrite off width data →
      if off = 0 ∧ width = .w64 then step s = issueCommand data (popTurn s)
      else step s = .next (popTurn s)) ∧
  (∀ (s : State) (off : Nat) (width : Width), nextTurn s = .hostRead off width →
    (off, width) ∈ ([(0x00, .w64), (0x08, .w16), (0x0A, .w16), (0x0C, .w32), (0x10, .w64)] :
      List (Nat × Width)) →
    ∃ t, step s = .next t ∧
      t = { s with schedule := t.schedule, draws := t.draws, readData := t.readData } ∧
      (off = 0x00 → t.readData = 0) ∧
      (off = 0x08 → t.readData.toNat = s.resp.toNat) ∧
      (off = 0x0A → t.readData.toNat = s.status.toNat) ∧
      (off = 0x0C → t.readData = 0) ∧
      (off = 0x10 → t.readData = s.faultCmd)) ∧
  (State.reset.resp = 0 ∧ State.reset.status = 0 ∧ State.reset.faultCmd = 0)

/-- MODEL'S CHOICE (notes/assumptions/7.md): a read of any offset and width, those that R38 gives no result
for included, changes nothing of the block. DEDUCED (notes/assumptions/19.md): a read that lies wholly inside
`CMD` or inside the reserved bytes gives 0, whatever its width. -/
def Obligations.NoReadChangesTheBlock : Prop :=
  ∀ (s : State) (off : Nat) (width : Width), nextTurn s = .hostRead off width →
    ∃ t, step s = .next t ∧
      t = { s with schedule := t.schedule, draws := t.draws, readData := t.readData } ∧
      (off + widthBytes width ≤ 8 → t.readData = 0) ∧
      (0x0C ≤ off ∧ off + widthBytes width ≤ 0x10 → t.readData = 0)

/-! ## Voice commands (41_voice.md section 2) -/

/-- `SETUP` writes every tunable of its voice and `RESP`, and nothing else (R150). -/
def Obligations.SetupWritesEveryTunable : Prop :=
  ∀ (v : VoiceId) (wref : Byte) (winc : Word16) (eref : Byte) (einc : Word16) (mdep : Int) (s : State),
    s.faulted = false → ∃ t, exec (.setup v wref winc eref einc mdep) s = .next t ∧
      t.voice v = { s.voice v with
        wref := wref, wrefV := true, wpi := winc, base := winc
        eref := eref, erefV := true, epi := einc, mdep := BitVec.ofInt 11 mdep } ∧
      (∀ u, u ≠ v → t.voice u = s.voice u) ∧
      t = { s with voices := t.voices, resp := 0 }

/-- `TRIGGER_MIDI` takes the increment from `PITCH_TABLE` and restarts the note (R151); under the default
table note 69 gives 3604 and note 120 the wrapped 3048 (R160). -/
def Obligations.TriggerMidiStartsTheNoteFromThePitchTable : Prop :=
  (∀ (v : VoiceId) (note : BitVec 7) (s : State), s.faulted = false →
    ∃ t inc, exec (.triggerMidi v note) s = .next t ∧
      s.pitchTable[note.toNat]? = some inc ∧
      t.voice v = { s.voice v with wpi := inc, base := inc, epa := 0 } ∧
      (∀ u, u ≠ v → t.voice u = s.voice u) ∧
      t = { s with voices := t.voices, resp := 0 }) ∧
  State.reset.pitchTable[69]? = some 3604 ∧ State.reset.pitchTable[120]? = some 3048

/-- `RETRIGGER` clears `EPA` and `RESP`, and nothing else (R152). -/
def Obligations.RetriggerClearsTheEnvelopeAccumulator : Prop :=
  ∀ (v : VoiceId) (s : State), s.faulted = false →
    ∃ t, exec (.retrigger v) s = .next t ∧
      t.voice v = { s.voice v with epa := 0 } ∧
      (∀ u, u ≠ v → t.voice u = s.voice u) ∧
      t = { s with voices := t.voices, resp := 0 }

/-- `TRIGGER_HZ` of a nonzero frequency takes the increment from `HZ_TO_INC`, by default
`floor(8000 / (256 * freq))`, and restarts the note; `freq` = 0 raises `FREQ_ZERO` and changes nothing but
the fault record (R153). -/
def Obligations.TriggerHzStartsTheNoteOrFaultsOnZero : Prop :=
  ∀ (v : VoiceId) (freq : Word16) (s : State), s.faulted = false →
    (freq ≠ 0 → ∃ t inc, exec (.triggerHz v freq) s = .next t ∧
      (∀ x, s.hzEntries.lookup freq = some x → inc = x) ∧
      (s.hzEntries.lookup freq = none → inc.toNat = 8000 / (256 * freq.toNat)) ∧
      t.voice v = { s.voice v with wpi := inc, base := inc, epa := 0 } ∧
      (∀ u, u ≠ v → t.voice u = s.voice u) ∧
      t = { s with voices := t.voices, resp := 0 }) ∧
    (freq = 0 → exec (.triggerHz v freq) s =
      .next { s with
        status := 0x000B + (bitsOfVoice v).setWidth 16 * 16
        faultCmd := 0x8000000000000000 ||| (bitsOfVoice v).setWidth 64 <<< 59 })

/-- `GET_AMP` writes the voice's cached amplitude, 0..255, to `RESP`, and nothing else (R154). -/
def Obligations.GetAmpAnswersTheCachedAmplitude : Prop :=
  ∀ (v : VoiceId) (s : State), s.faulted = false →
    ∃ t, exec (.getAmp v) s = .next t ∧ t.resp.toNat = (s.voice v).amp.toNat ∧
      t = { s with resp := t.resp }

/-- A voice command that answers a next state leaves every other voice, the dividers, the beat clock, the
timebase, `OUT`, the table store (byte by byte) and the other launch inputs as they were; only
`TRIGGER_HZ` of 0 writes the fault record. -/
def Obligations.VoiceCommandsTouchOnlyTheirVoice : Prop :=
  ∀ (i : Instr) (v : VoiceId) (s t : State), voiceOf i = some v → exec i s = .next t →
    (∀ u, u ≠ v → t.voice u = s.voice u) ∧
    t = { s with voices := t.voices, resp := t.resp, status := t.status, faultCmd := t.faultCmd } ∧
    (i ≠ .triggerHz v 0 → t.status = s.status ∧ t.faultCmd = s.faultCmd) ∧
    (∀ a, memRead t.tables a = memRead s.tables a)

/-- No command writes a wave phase or an amplitude; only the three triggers write an envelope accumulator,
of their own voice, and they clear it. -/
def Obligations.CommandsKeepPhaseAndAmplitude : Prop :=
  ∀ (i : Instr) (s t : State) (u : VoiceId), exec i s = .next t →
    (t.voice u).wpa = (s.voice u).wpa ∧ (t.voice u).amp = (s.voice u).amp ∧
    ((t.voice u).epa = (s.voice u).epa ∨ ((t.voice u).epa = 0 ∧ triggers u i))

/-- Rule R40: what each completed command writes to `RESP`, that a faulting or ignored command leaves it,
and that no other step but reset writes it. -/
def Obligations.RespIsWrittenByCompletedCommandsOnly : Prop :=
  (∀ (i : Instr) (s t : State), s.faulted = false → exec i s = .next t →
    (t.faulted = true → t.resp = s.resp) ∧
    (t.faulted = false →
      match i with
      | .getAmp v => t.resp.toNat = (s.voice v).amp.toNat
      | .beatComplete => t.resp.toNat = s.bcLatch.toNat
      | .setup _ _ _ _ _ _ => t.resp = 0
      | .triggerMidi _ _ => t.resp = 0
      | .retrigger _ => t.resp = 0
      | .triggerHz _ _ => t.resp = 0
      | .setBpm _ => t.resp = 0)) ∧
  (∀ (w : Word64) (s : State), s.faulted = true → issueCommand w s = .next s) ∧
  (∀ s t : State, step s = .next t → t.resp ≠ s.resp →
    nextTurn s = .reset ∨ ∃ w i, issues s w ∧ decode w = .command i ∧
      s.faulted = false ∧ t.faulted = false)

/-! ## Beat clock (43_beatclock.md) -/

/-- `SET_BPM` of a nonzero tempo loads both counters with `floor(120000 / bpm)` and clears the latch;
`bpm` = 0 raises `BPM_ZERO` and changes nothing but the fault record (R192). -/
def Obligations.SetBpmLoadsTheCountdownOrFaultsOnZero : Prop :=
  ∀ (bpm : Byte) (s : State), s.faulted = false →
    (bpm ≠ 0 → ∃ t, exec (.setBpm bpm) s = .next t ∧ t.bcStart.toNat = 120000 / bpm.toNat ∧
      470 ≤ t.bcStart.toNat ∧
      t = { s with bcStart := t.bcStart, bcCount := t.bcStart, bcLatch := false, resp := 0 }) ∧
    (bpm = 0 → exec (.setBpm bpm) s =
      .next { s with status := 0x0009, faultCmd := 0xC000000000000000 })

/-- `BEAT_COMPLETE` answers the latch and clears it, so a second one with nothing between answers 0
(R193). -/
def Obligations.BeatCompleteReadsAndClearsTheLatch : Prop :=
  ∀ s : State, s.faulted = false →
    ∃ t, exec .beatComplete s = .next t ∧ t.resp.toNat = s.bcLatch.toNat ∧
      t = { s with bcLatch := false, resp := t.resp } ∧
      exec .beatComplete t = .next { t with resp := 0 }

/-- The beat clock's step, case by case (R190): idle, rollover with the latch set whatever it was, or one
down. -/
def Obligations.BeatTickCountsDownAndRollsOver : Prop :=
  ∀ s : State,
    (s.bcStart = 0 → beatTick s = s) ∧
    (s.bcStart ≠ 0 → s.bcCount = 1 → beatTick s = { s with bcCount := s.bcStart, bcLatch := true }) ∧
    (s.bcStart ≠ 0 → s.bcCount ≠ 1 → beatTick s = { s with bcCount := s.bcCount - 1 })

/-- The latch's period (R191, the spec's inference: "After a SET_BPM, the latch is set on exactly the ticks
numbered `BC_START`, `2 * BC_START`, ..."), over ticks that raise no fault: with the latch clear before it,
tick number `n + 1` sets it exactly when `BC_START` divides `n + 1`; with nothing read in between, the latch
is up from tick number `BC_START` on. -/
def Obligations.BeatLatchIsSetEveryBcStartTicks : Prop :=
  ∀ (bpm : Byte) (s t : State), bpm ≠ 0 → s.faulted = false → exec (.setBpm bpm) s = .next t →
    ∀ n : Nat, (ticks (n + 1) t).faulted = false →
      ((tick { ticks n t with bcLatch := false }).bcLatch = true ↔ t.bcStart.toNat ∣ n + 1) ∧
      ((ticks (n + 1) t).bcLatch = true ↔ t.bcStart.toNat ≤ n + 1)

/-- Rule R195: no voice command changes the beat clock, the two beat commands change no voice, and a tick
that completes steps the beat clock from its own registers alone, whatever the voices do. -/
def Obligations.BeatClockIsIndependentOfTheVoices : Prop :=
  (∀ (i : Instr) (v : VoiceId) (s t : State), voiceOf i = some v → exec i s = .next t →
    t.bcStart = s.bcStart ∧ t.bcCount = s.bcCount ∧ t.bcLatch = s.bcLatch) ∧
  (∀ (i : Instr) (s t : State), voiceOf i = none → exec i s = .next t →
    t = { s with bcStart := t.bcStart, bcCount := t.bcCount, bcLatch := t.bcLatch
                 resp := t.resp, status := t.status, faultCmd := t.faultCmd }) ∧
  (∀ s : State, s.faulted = false → (tick s).faulted = false →
    (tick s).bcStart = (beatTick s).bcStart ∧ (tick s).bcCount = (beatTick s).bcCount ∧
    (tick s).bcLatch = (beatTick s).bcLatch)

/-! ## Timebase and tick (40_timebase.md) -/

/-- Rule R110: a reference cycle counts mod 2^16, and on a match advances the threshold by 250 mod 2^16
and sets the pending bit, whether or not a fault is latched; it writes nothing else. -/
def Obligations.RefCycleCountsAndRaisesTheTick : Prop :=
  ∀ s : State, ∃ t, refCycle s = t ∧
    t.tbRef.toNat = (s.tbRef.toNat + 1) % 65536 ∧
    (t.tbRef = s.tbNext → t.tbNext.toNat = (s.tbNext.toNat + 250) % 65536 ∧ t.tbPend = true) ∧
    (t.tbRef ≠ s.tbNext → t.tbNext = s.tbNext ∧ t.tbPend = s.tbPend) ∧
    t = { s with tbRef := t.tbRef, tbNext := t.tbNext, tbPend := t.tbPend }

/-- From reset the match of reference cycle `m + 1` is reached exactly when 250 divides `m + 1` (R111, the
spec's inference), over every wrap of the 16-bit counter. -/
def Obligations.TicksAreRaisedEvery250Cycles : Prop :=
  ∀ m : Nat,
    (refCycles m State.reset).tbRef.toNat = m % 65536 ∧
    (refCycles m State.reset).tbNext.toNat = 250 * (m / 250 + 1) % 65536 ∧
    (matchIsNext (refCycles m State.reset) = true ↔ 250 ∣ m + 1)

/-- No tick is lost and none runs twice (R116): a step that raises a tick finds none pending, and a step
that steps the dividers consumes a pending one. Reset aside. MODEL'S CHOICE (notes/assumptions/10.md): a
reference cycle that would match while a tick is pending waits at the head of the schedule while that tick
runs; MODEL'S CHOICE (notes/assumptions/11.md): a tick turn with none pending does nothing. -/
def Obligations.NoTickIsLostOrRunTwice : Prop :=
  (∀ s t : State, step s = .next t → nextTurn s ≠ .reset →
    (t.tbNext ≠ s.tbNext → s.tbPend = false ∧ t.tbPend = true) ∧
    (t.divMod ≠ s.divMod → s.tbPend = true ∧ t.tbPend = false) ∧
    (s.tbPend = true → t.tbPend = false → nextTurn s = .tick ∨ nextTurn s = .refCycle)) ∧
  (∀ s : State, nextTurn s = .refCycle → step s = .next
    (if tickIsDue s then { tick (popTurn s) with schedule := .refCycle :: (popTurn s).schedule }
     else refCycle (popTurn s))) ∧
  (∀ s : State, nextTurn s = .tick → step s = .next
    (if s.tbPend then tick (popTurn s) else popTurn s))

/-- The Timebase is weakly fair (R119), as the model has it (notes/assumptions/1.md: a free stretch of turns is
finite and ends in a reference cycle): on the run from any state, after any number of steps, a step that
starts with a reference cycle's turn still comes. -/
def Obligations.ReferenceCyclesRecur : Prop :=
  ∀ (s : State) (n : Nat), ∃ m u, n ≤ m ∧ Host.Core.run Sys2Proof.core m s = .next u ∧
    nextTurn u = .refCycle

/-- "Ticks happen infinitely often" (R119), as the model has it (notes/assumptions/1.md): on the run from any
state, after any number of steps, a step that runs a tick still comes, or the `RESET` input is asserted. -/
def Obligations.TicksRecur : Prop :=
  ∀ (s : State) (n : Nat), ∃ m u, n ≤ m ∧
    Host.Core.run Sys2Proof.core m s = .next u ∧ (runsTick u ∨ nextTurn u = .reset)

/-- The step that `runsTick` names is the tick, on the state its turn was taken from; it consumes the pending
bit, and no other step but reset writes the dividers or `OUT` (R114). -/
def Obligations.OnlyTicksStepTheEngine : Prop :=
  ∀ s t : State, step s = .next t →
    (runsTick s → t.tbPend = false ∧ ∃ rest, t = { tick (popTurn s) with schedule := rest }) ∧
    (¬ runsTick s → nextTurn s ≠ .reset →
      t.divEnv = s.divEnv ∧ t.divMod = s.divMod ∧ t.out = s.out)

/-- A tick whose four voices each give a sample: dividers, voices, mixer, `OUT`, beat clock (R112, R114,
R184). The gates the voices get are those of the stepped dividers. -/
def Obligations.TickRunsTheUnitsInOrder : Prop :=
  ∀ (s : State) (x : VoiceId → Voice) (n : VoiceId → Int) (updEnv applyMod : Bool),
    s.faulted = false →
    (updEnv = true ↔ (s.divEnv.toNat + 1) % 4 = 0) →
    (applyMod = true ↔ (s.divMod.toNat + 1) % 800 = 0) →
    (∀ v, voiceSample s.tables updEnv applyMod (s.voice v) = .sample (x v) (n v)) →
    ∃ t, t.divEnv.toNat = (s.divEnv.toNat + 1) % 4 ∧ t.divMod.toNat = (s.divMod.toNat + 1) % 800 ∧
      (∀ v, t.voice v = x v) ∧ t.out = mix (n .v0) (n .v1) (n .v2) (n .v3) ∧ t.tbPend = false ∧
      t = { s with divEnv := t.divEnv, divMod := t.divMod, voices := t.voices
                   out := t.out, tbPend := t.tbPend } ∧
      tick s = beatTick t

/-- A tick in which a voice faults reports the first such voice in the order 0, 1, 2, 3 and discards every
write but `TB_PEND <- 0` (R115, R212, R215). -/
def Obligations.TickReportsTheFirstFaultingVoice : Prop :=
  ∀ (s : State) (v : VoiceId) (c : Cause) (updEnv applyMod : Bool),
    s.faulted = false →
    (updEnv = true ↔ (s.divEnv.toNat + 1) % 4 = 0) →
    (applyMod = true ↔ (s.divMod.toNat + 1) % 800 = 0) →
    voiceSample s.tables updEnv applyMod (s.voice v) = .fault c →
    (∀ u, (bitsOfVoice u).toNat < (bitsOfVoice v).toNat →
      ∃ x n, voiceSample s.tables updEnv applyMod (s.voice u) = .sample x n) →
    ∃ t, tick s = t ∧ statusFaulted t.status = true ∧ statusCause t.status = causeCode c ∧
      statusVoice t.status = bitsOfVoice v ∧ statusTick t.status = true ∧
      t = { s with tbPend := false, status := t.status, faultCmd := 0 }

/-- Right after reset and with no command, every tick leaves the voices as they are and writes 127 to
`OUT`, the beat clock stays idle, and the dividers count from 0 (R242, the spec's inference: "every tick
keeps writing 127 until a voice sounds"). -/
def Obligations.SilentBlockTicksFromReset : Prop :=
  ∀ n : Nat, ∃ t, ticks n State.reset = t ∧ t.faulted = false ∧ t.voices = State.reset.voices ∧
    t.out = 127 ∧ t.bcLatch = false ∧ t.divEnv.toNat = n % 4 ∧ t.divMod.toNat = n % 800

/-- Ticks complete: from a running block in which each voice is over or has its tables set (both valid bits
at once, and silent before them: R134, the spec's inference), no run of ticks raises a fault. -/
def Obligations.TicksCompleteOnceTheTablesAreSet : Prop :=
  ∀ (n : Nat) (s : State), s.faulted = false →
    (∀ v, tablesSetInv (s.voice v) ∧
      (sentinel (s.voice v).epa = true ∨ (s.voice v).wrefV = true)) →
    (ticks n s).faulted = false

/-! ## Voice (41_voice.md section 1) -/

/-- The envelope step, case by case on numbers (R131): when it faults, that with the wave table set as well
the voice gives a sample in every other case (R134), and what a voice that gives one holds. -/
def Obligations.EnvelopeStepFollowsItsCases : Prop :=
  ∀ (tb : List Host.Cell) (applyMod : Bool) (x : Voice),
    (∀ updEnv : Bool, voiceSample tb updEnv applyMod x = .fault .unsetEnvTable ↔
      updEnv = true ∧ x.epa.toNat < 32768 ∧ x.erefV = false) ∧
    (∀ updEnv : Bool, (updEnv = false ∨ 32768 ≤ x.epa.toNat ∨ x.erefV = true) → x.wrefV = true →
      ∃ y n, voiceSample tb updEnv applyMod x = .sample y n) ∧
    (∀ (updEnv : Bool) (y : Voice) (n : Int), voiceSample tb updEnv applyMod x = .sample y n →
      (updEnv = false → y.epa = x.epa ∧ y.amp = x.amp) ∧
      (updEnv = true → 32768 ≤ x.epa.toNat → y.epa = x.epa ∧ y.amp = 0) ∧
      (updEnv = true → x.epa.toNat < 32768 →
        x.erefV = true ∧ y.epa.toNat = (x.epa.toNat + x.epi.toNat) % 65536 ∧
        (32768 ≤ y.epa.toNat → y.amp = 0) ∧
        (y.epa.toNat < 32768 → y.amp = tableByteAt tb x.eref.toNat (y.epa.toNat / 128))))

/-- Rule R132: the phase advances mod 2^16 on every tick, whatever the gates, the amplitude and the
sentinel are, and the sample reads the wave entry at the new phase (the floor of a 256th of the product). -/
def Obligations.OscillatorAdvancesBeforeTheSample : Prop :=
  ∀ (tb : List Host.Cell) (updEnv applyMod : Bool) (x y : Voice) (n : Int),
    voiceSample tb updEnv applyMod x = .sample y n →
      y.wpa.toNat = (x.wpa.toNat + x.wpi.toNat) % 65536 ∧
      y = { x with wpa := y.wpa, epa := y.epa, amp := y.amp } ∧
      (y.amp = 0 → n = 0) ∧
      (y.amp ≠ 0 → x.wrefV = true ∧
        n = Int.fdiv ((tableByteAt tb x.wref.toNat (y.wpa.toNat / 256)).toInt * y.amp.toNat) 256)

/-- Rule R133: on a modulation tick the voice does what it does on any other, and `MDEP` and `BASE` are
neither read nor written. -/
def Obligations.ModulationHookDoesNothing : Prop :=
  ∀ (tb : List Host.Cell) (updEnv : Bool) (x : Voice) (b : Word16) (m : BitVec 11),
    voiceSample tb updEnv true x = voiceSample tb updEnv false x ∧
    (∀ y n, voiceSample tb updEnv true x = .sample y n →
      voiceSample tb updEnv true { x with base := b, mdep := m } =
        .sample { y with base := b, mdep := m } n ∧ y.base = x.base ∧ y.mdep = x.mdep) ∧
    (∀ c, voiceSample tb updEnv true x = .fault c →
      voiceSample tb updEnv true { x with base := b, mdep := m } = .fault c)

/-- A sample lies in -128..126 (R135, the spec's inference from R134). -/
def Obligations.SampleFitsASignedByte : Prop :=
  ∀ (tb : List Host.Cell) (updEnv applyMod : Bool) (x y : Voice) (n : Int),
    voiceSample tb updEnv applyMod x = .sample y n → -128 ≤ n ∧ n ≤ 126

/-- The phase law over any run of ticks that raises no fault (R136, the spec's inference: "After N ticks
from a state with `WPA` = a, `WPA` = `(a + N * WPI) mod 65536`"). -/
def Obligations.PhaseLawOverTicks : Prop :=
  ∀ (n : Nat) (s : State) (v : VoiceId), (ticks n s).faulted = false →
    ((ticks n s).voice v).wpa.toNat =
      ((s.voice v).wpa.toNat + n * (s.voice v).wpi.toNat) % 65536

/-- The envelope's trajectory over `k` updates from a trigger (R137, the spec's inference), whatever
`DIV_ENV` is at the trigger: update number `k` is tick number `4 * k - DIV_ENV`. `EPA = k * EPI` up to the
update that sets the sentinel, the table entry read on the way, and silence from there on. -/
def Obligations.EnvelopeTrajectoryOverTicks : Prop :=
  ∀ (k : Nat) (s t : State) (v : VoiceId), (s.voice v).epa = 0 →
    0 < (s.voice v).epi.toNat → (s.voice v).epi.toNat ≤ 32768 →
    t = ticks (4 * k - s.divEnv.toNat) s → t.faulted = false →
    ((k - 1) * (s.voice v).epi.toNat < 32768 → (t.voice v).epa.toNat = k * (s.voice v).epi.toNat) ∧
    (0 < k → k * (s.voice v).epi.toNat < 32768 → (t.voice v).amp =
      tableByteAt s.tables (s.voice v).eref.toNat (k * (s.voice v).epi.toNat / 128)) ∧
    (32768 ≤ k * (s.voice v).epi.toNat → 32768 ≤ (t.voice v).epa.toNat ∧ (t.voice v).amp = 0)

/-- An ended note stays silent until a trigger of its voice (R138, the spec's inference): over any step,
and its sample is 0 whatever the gates and the tables are. -/
def Obligations.EndedNoteStaysSilentUntilATrigger : Prop :=
  (∀ (s t : State) (v : VoiceId), step s = .next t → sentinel (s.voice v).epa = true →
    (s.voice v).amp = 0 →
    (t.voice v).amp = 0 ∧ (sentinel (t.voice v).epa = true ∨
      ∃ w i, issues s w ∧ decode w = .command i ∧ triggers v i)) ∧
  (∀ (tb : List Host.Cell) (updEnv applyMod : Bool) (x : Voice), sentinel x.epa = true → x.amp = 0 →
    ∃ y, voiceSample tb updEnv applyMod x = .sample y 0)

/-- The amplitude latency after a trigger (R251, the spec's inference): until the first envelope-update
tick, `4 - DIV_ENV` ticks on, amplitude and accumulator keep their values; that tick advances a cleared
accumulator to `EPI` and reads its entry. -/
def Obligations.AmplitudeWaitsForTheEnvelopeTick : Prop :=
  ∀ (s : State) (v : VoiceId),
    (∀ m, m + s.divEnv.toNat < 4 → (ticks m s).faulted = false →
      ((ticks m s).voice v).amp = (s.voice v).amp ∧ ((ticks m s).voice v).epa = (s.voice v).epa) ∧
    ((s.voice v).epa = 0 → (ticks (4 - s.divEnv.toNat) s).faulted = false →
      ((ticks (4 - s.divEnv.toNat) s).voice v).epa = (s.voice v).epi ∧
      ((s.voice v).epi.toNat < 32768 → ((ticks (4 - s.divEnv.toNat) s).voice v).amp =
        tableByteAt s.tables (s.voice v).eref.toNat ((s.voice v).epi.toNat / 128)))

/-! ## Mixer (42_mixer.md) -/

/-- Rule R180: for samples in range, `OUT` is 127 plus the floor of a quarter of the exact sum, mod 256;
only sums below -508 leave 0..253, and they store 255. -/
def Obligations.MixerAveragesAndAddsTheBias : Prop :=
  ∀ a b c d : Int, (-128 ≤ a ∧ a ≤ 126) → (-128 ≤ b ∧ b ≤ 126) → (-128 ≤ c ∧ c ≤ 126) →
    (-128 ≤ d ∧ d ≤ 126) →
    ((mix a b c d).toNat : Int) = (127 + Int.fdiv (a + b + c + d) 4) % 256 ∧
    (-508 ≤ a + b + c + d → ((mix a b c d).toNat : Int) = 127 + Int.fdiv (a + b + c + d) 4 ∧
      (mix a b c d).toNat ≤ 253) ∧
    (a + b + c + d < -508 → mix a b c d = 255)

/-- Four equal samples S give `127 + S`, and 255 at S = -128 (R183, the spec's inference). -/
def Obligations.EqualSamplesGiveTheirValuePlusTheBias : Prop :=
  ∀ a : Int, (a = -128 → mix a a a a = 255) ∧
    (-127 ≤ a → a ≤ 126 → ((mix a a a a).toNat : Int) = 127 + a)

/-! ## Faults (60_exceptions.md) -/

/-- Rule R212: raising a fault writes the record's fields and nothing else, and every step that latches a
fault leaves the state before its operation plus the record (a tick's `TB_PEND <- 0` aside): the word and
`FTICK` = 0 for a command, 0 and `FTICK` = 1 for a tick. `FVOICE` is 0 for the two causes that name no
voice. -/
def Obligations.FaultsArePrecise : Prop :=
  (∀ (c : Cause) (v : VoiceId) (op : Operation) (s : State),
    ∃ t, raiseFault c v op s = t ∧ t = { s with status := t.status, faultCmd := t.faultCmd } ∧
      statusFaulted t.status = true ∧ statusCause t.status = causeCode c ∧
      statusVoice t.status = bitsOfVoice v ∧
      (statusTick t.status = true ↔ op = .tick) ∧
      (op = .tick → t.faultCmd = 0) ∧ (∀ w, op = .command w → t.faultCmd = w)) ∧
  (∀ s t : State, step s = .next t → s.faulted = false → t.faulted = true →
    (∃ w, issues s w ∧ statusTick t.status = false ∧
      (statusCause t.status = causeCode .illegalCommand ∨ statusCause t.status = causeCode .bpmZero →
        statusVoice t.status = 0) ∧
      t = { popTurn s with status := t.status, faultCmd := w }) ∨
    ((nextTurn s = .tick ∨ nextTurn s = .refCycle) ∧ statusTick t.status = true ∧
      t = { s with tbPend := false, status := t.status, faultCmd := 0
                   schedule := t.schedule, draws := t.draws }))

/-- Rule R42: `FAULT_CMD` holds the word of a faulting command, 0 after a faulting tick, is written only
when a fault is latched, and stays until reset. -/
def Obligations.FaultCmdHoldsTheFaultingWord : Prop :=
  ∀ s t : State, step s = .next t →
    (∀ w, issues s w → s.faulted = false → t.faulted = true → t.faultCmd = w) ∧
    (nextTurn s = .tick ∨ nextTurn s = .refCycle → s.faulted = false → t.faulted = true →
      t.faultCmd = 0) ∧
    (nextTurn s ≠ .reset → s.faulted = true ∨ t.faulted = false → t.faultCmd = s.faultCmd)

/-- Rule R213: what a halted block still does, and that only reset clears the fault. -/
def Obligations.HaltedBlockOnlyCountsAndAnswersReads : Prop :=
  ∀ s : State, s.faulted = true →
    tick s = { s with tbPend := false } ∧
    (∀ w, issueCommand w s = .next s) ∧ (∀ i, exec i s = .next s) ∧
    (hostRead 0x0A .w16 s).readData.toNat = s.status.toNat ∧
    (hostRead 0x10 .w64 s).readData = s.faultCmd ∧
    (hostRead 0x08 .w16 s).readData.toNat = s.resp.toNat ∧
    (refCycle s).tbRef = s.tbRef + 1 ∧
    ((refCycle s).tbRef = s.tbNext → (refCycle s).tbNext = s.tbNext + 250 ∧ (refCycle s).tbPend = true) ∧
    (∀ t, step s = .next t → nextTurn s ≠ .reset →
      t = { s with tbRef := t.tbRef, tbNext := t.tbNext, tbPend := t.tbPend
                   schedule := t.schedule, draws := t.draws, readData := t.readData }) ∧
    (∀ t, step s = .next t → nextTurn s = .reset → t.faulted = false)

/-- `UNSET_WAVE_TABLE` is never latched from a state that has the invariant (R134, the spec's inference:
"It cannot be reached"). -/
def Obligations.UnsetWaveTableIsNeverLatched : Prop :=
  ∀ s t : State, BlockInv s → step s = .next t → statusCause t.status ≠ 3

/-! ## Reset (70_reset_and_hazards.md) -/

/-- Rule R240: a step on an asserted `RESET` gives every register its listed reset value, as
`State.reset` has it, and it is the only step that clears a latched fault. -/
def Obligations.ResetGivesEveryRegisterItsValue : Prop :=
  registersAtReset State.reset ∧
  (∀ s : State, nextTurn s = .reset → ∃ t, step s = .next t ∧ registersAtReset t ∧
    t.tables = s.tables ∧ t.pitchTable = s.pitchTable) ∧
  (∀ s t : State, s.faulted = true → step s = .next t → t.faulted = false → nextTurn s = .reset)

/-! ## Invariants -/

/-- The invariant of the block holds at reset (R22, R34 to R36). -/
def Obligations.ResetHasTheInvariant : Prop := BlockInv State.reset

/-- Each step keeps the invariant of the block: the sentinel, valid-bit and baseline invariants of the
four voices, the beat counter's range, the dividers' range, the threshold's distance, a legal fault record
and the canonical table store (R30, R32, R34, R111, R134, R194, R211). -/
def Obligations.StepKeepsTheInvariant : Prop :=
  ∀ s t : State, BlockInv s → step s = .next t → BlockInv t

/-- The sentinel invariant alone is kept by each step: "once the envelope accumulator's sentinel bit is
set, cached amplitude is forced to 0 and stays 0 until a trigger operation resets the accumulator to 0"
(R32). -/
def Obligations.StepKeepsTheSentinelInvariant : Prop :=
  ∀ s t : State, (∀ v, sentinelInv (s.voice v)) → step s = .next t → ∀ v, sentinelInv (t.voice v)

/-- A run from any state answers a next state (R120), and from a state with the invariant it reaches only states
with it, whatever its schedule, tables and pitch inputs are: the schedule may list any turns in any order, so
this speaks of every sequence of turns. -/
def Obligations.RunsNeverStopAndKeepTheInvariant : Prop :=
  ∀ (n : Nat) (s : State), ∃ t, Host.Core.run Sys2Proof.core n s = .next t ∧ (BlockInv s → BlockInv t)

/-- Rule R46: no step writes the table store, byte by byte and as a list, the pitch table or the direct
pitch values. -/
def Obligations.NoStepWritesALaunchInput : Prop :=
  ∀ s t : State, step s = .next t →
    t.tables = s.tables ∧ (∀ a, memRead t.tables a = memRead s.tables a) ∧
    t.pitchTable = s.pitchTable ∧ t.hzEntries = s.hzEntries

/-- `BASE` and `MDEP` cannot be observed (R30, R31, R133): states that differ only in them step to states
that differ only in them. -/
def Obligations.ModulationFieldsCannotBeObserved : Prop :=
  ∀ s s' t : State, blot s = blot s' → step s = .next t →
    ∃ t', step s' = .next t' ∧ blot t = blot t'

/-- Voices share no state (R22, R115): what a completed tick makes of a voice depends on that voice, the
dividers and the tables alone. -/
def Obligations.TickOfAVoiceIgnoresTheOthers : Prop :=
  ∀ (s s' : State) (v : VoiceId), s.tables = s'.tables → s.divEnv = s'.divEnv →
    s.voice v = s'.voice v → (tick s).faulted = false → (tick s').faulted = false →
    (tick s).voice v = (tick s').voice v
end

