-- ==== Sys2Proof/Laws/Encoding.lean ====
section
/-! SUPPORT. The fields of a command word as numbers, and the voice index read back. -/

namespace Sys2Proof

/-- A field is a quotient and a remainder of the word's number. -/
theorem field_toNat (w : Word64) (lo len : Nat) :
    (field w lo len).toNat = w.toNat / 2 ^ lo % 2 ^ len := by
  simp [field, Nat.shiftRight_eq_div_pow]

@[simp] theorem voiceOfBits_bitsOfVoice (v : VoiceId) : voiceOfBits (bitsOfVoice v) = v := by
  cases v <;> rfl

@[simp] theorem bitsOfVoice_voiceOfBits (b : BitVec 2) : bitsOfVoice (voiceOfBits b) = b := by
  revert b
  decide

theorem packWord_toNat (op vv payload : Nat) (ho : op < 8) (hv : vv < 4) (hp : payload < 2 ^ 59) :
    (packWord op vv payload).toNat = op * 2 ^ 61 + vv * 2 ^ 59 + payload := by
  rw [packWord, BitVec.toNat_ofNat]
  omega

/-- The payload of `SETUP` fits its 59 bits. -/
theorem setupPayload_lt (wref : Byte) (winc : Word16) (eref : Byte) (einc : Word16) (m : BitVec 11) :
    wref.toNat * 2 ^ 51 + winc.toNat * 2 ^ 35 + eref.toNat * 2 ^ 27 + einc.toNat * 2 ^ 11 + m.toNat
      < 2 ^ 59 := by
  have := wref.isLt; have := winc.isLt; have := eref.isLt; have := einc.isLt; have := m.isLt
  omega

/-- A field has the value its quotient and remainder give. -/
theorem field_eq_of (w : Word64) (lo len : Nat) (b : BitVec len)
    (h : w.toNat / 2 ^ lo % 2 ^ len = b.toNat) : field w lo len = b :=
  BitVec.eq_of_toNat_eq (by rw [field_toNat]; exact h)

/-- A reserved field is clear exactly when its number is 0. -/
theorem field_clear (w : Word64) (lo len : Nat) :
    (field w lo len == 0) = decide (w.toNat / 2 ^ lo % 2 ^ len = 0) := by
  rw [Bool.eq_iff_iff]
  simp only [beq_iff_eq, decide_eq_true_eq, ← BitVec.toNat_inj, field_toNat]
  simp

theorem bitsOfVoice_field (w : Word64) :
    (bitsOfVoice (voiceOfBits (field w 59 2))).toNat = w.toNat / 2 ^ 59 % 4 := by
  rw [bitsOfVoice_voiceOfBits, field_toNat]
  norm_num

theorem ifClear_command {b : Bool} {i j : Instr} (h : ifClear b i = .command j) : b = true ∧ j = i := by
  unfold ifClear at h
  split at h <;> simp_all

/-- What the decoder gives, opcode by opcode (R88). -/
theorem decode_cases (w : Word64) :
    (w.toNat / 2 ^ 61 = 0 ∧ decode w = .illegal .reservedOpcode) ∨
    (w.toNat / 2 ^ 61 = 1 ∧ decode w = .command (.setup (voiceOfBits (field w 59 2)) (field w 51 8)
      (field w 35 16) (field w 27 8) (field w 11 16) (field w 0 11).toInt)) ∨
    (w.toNat / 2 ^ 61 = 2 ∧ decode w =
      ifClear (field w 7 52 == 0) (.triggerMidi (voiceOfBits (field w 59 2)) (field w 0 7))) ∨
    (w.toNat / 2 ^ 61 = 3 ∧ decode w =
      ifClear (field w 0 59 == 0) (.retrigger (voiceOfBits (field w 59 2)))) ∨
    (w.toNat / 2 ^ 61 = 4 ∧ decode w =
      ifClear (field w 16 43 == 0) (.triggerHz (voiceOfBits (field w 59 2)) (field w 0 16))) ∨
    (w.toNat / 2 ^ 61 = 5 ∧ decode w =
      ifClear (field w 0 59 == 0) (.getAmp (voiceOfBits (field w 59 2)))) ∨
    (w.toNat / 2 ^ 61 = 6 ∧ decode w = ifClear (field w 8 53 == 0) (.setBpm (field w 0 8))) ∨
    (w.toNat / 2 ^ 61 = 7 ∧ decode w = ifClear (field w 0 61 == 0) .beatComplete) := by
  have hlt := w.isLt
  have hop : (field w 61 3).toNat = w.toNat / 2 ^ 61 := by rw [field_toNat]; omega
  have hcases : w.toNat / 2 ^ 61 = 0 ∨ w.toNat / 2 ^ 61 = 1 ∨ w.toNat / 2 ^ 61 = 2 ∨
      w.toNat / 2 ^ 61 = 3 ∨ w.toNat / 2 ^ 61 = 4 ∨ w.toNat / 2 ^ 61 = 5 ∨ w.toNat / 2 ^ 61 = 6 ∨
      w.toNat / 2 ^ 61 = 7 := by omega
  unfold decode
  rw [hop]
  rcases hcases with h | h | h | h | h | h | h | h <;> rw [h] <;> simp

end Sys2Proof
end

