-- ==== Sys2Proof/Laws/State.lean ====
section
/-! SUPPORT. The small lemmas of the state: each named update, field by field, and the voice register
file's read after write. -/

namespace Sys2Proof.Machine

/-! ## The voice register file -/

@[simp] theorem voices_get_set_same (vs : Voices) (v : VoiceId) (x : Voice) :
    (vs.set v x).get v = x := by cases v <;> rfl

@[simp] theorem voices_get_set_other (vs : Voices) (v u : VoiceId) (x : Voice) (h : u ≠ v) :
    (vs.set v x).get u = vs.get u := by
  cases v <;> cases u <;> first | rfl | exact absurd rfl h

@[simp] theorem voices_set_get (vs : Voices) (v : VoiceId) : vs.set v (vs.get v) = vs := by
  cases v <;> rfl

theorem voices_ext (vs us : Voices) (h : ∀ v, vs.get v = us.get v) : vs = us := by
  cases vs; cases us
  have h0 := h .v0; have h1 := h .v1; have h2 := h .v2; have h3 := h .v3
  simp only [Voices.get] at h0 h1 h2 h3
  simp [h0, h1, h2, h3]

theorem voice_setVoice_same (v : VoiceId) (x : Voice) (s : State) : (setVoice v x s).voice v = x :=
  voices_get_set_same s.voices v x

theorem voice_setVoice_other (v u : VoiceId) (x : Voice) (s : State) (h : u ≠ v) :
    (setVoice v x s).voice u = s.voice u := voices_get_set_other s.voices v u x h

@[simp] theorem voice_respond (r : Word16) (s : State) (v : VoiceId) :
    (respond r s).voice v = s.voice v := rfl

@[simp] theorem voice_raiseFault (c : Cause) (u : VoiceId) (op : Operation) (s : State) (v : VoiceId) :
    (raiseFault c u op s).voice v = s.voice v := rfl

/-! ## `setVoice` -/

@[simp] theorem setVoice_voices (v : VoiceId) (x : Voice) (s : State) :
    (setVoice v x s).voices = s.voices.set v x := rfl
@[simp] theorem setVoice_divEnv (v : VoiceId) (x : Voice) (s : State) :
    (setVoice v x s).divEnv = s.divEnv := rfl
@[simp] theorem setVoice_divMod (v : VoiceId) (x : Voice) (s : State) :
    (setVoice v x s).divMod = s.divMod := rfl
@[simp] theorem setVoice_bcStart (v : VoiceId) (x : Voice) (s : State) :
    (setVoice v x s).bcStart = s.bcStart := rfl
@[simp] theorem setVoice_bcCount (v : VoiceId) (x : Voice) (s : State) :
    (setVoice v x s).bcCount = s.bcCount := rfl
@[simp] theorem setVoice_bcLatch (v : VoiceId) (x : Voice) (s : State) :
    (setVoice v x s).bcLatch = s.bcLatch := rfl
@[simp] theorem setVoice_tbRef (v : VoiceId) (x : Voice) (s : State) :
    (setVoice v x s).tbRef = s.tbRef := rfl
@[simp] theorem setVoice_tbNext (v : VoiceId) (x : Voice) (s : State) :
    (setVoice v x s).tbNext = s.tbNext := rfl
@[simp] theorem setVoice_tbPend (v : VoiceId) (x : Voice) (s : State) :
    (setVoice v x s).tbPend = s.tbPend := rfl
@[simp] theorem setVoice_out (v : VoiceId) (x : Voice) (s : State) :
    (setVoice v x s).out = s.out := rfl
@[simp] theorem setVoice_resp (v : VoiceId) (x : Voice) (s : State) :
    (setVoice v x s).resp = s.resp := rfl
@[simp] theorem setVoice_status (v : VoiceId) (x : Voice) (s : State) :
    (setVoice v x s).status = s.status := rfl
@[simp] theorem setVoice_faultCmd (v : VoiceId) (x : Voice) (s : State) :
    (setVoice v x s).faultCmd = s.faultCmd := rfl
@[simp] theorem setVoice_tables (v : VoiceId) (x : Voice) (s : State) :
    (setVoice v x s).tables = s.tables := rfl
@[simp] theorem setVoice_pitchTable (v : VoiceId) (x : Voice) (s : State) :
    (setVoice v x s).pitchTable = s.pitchTable := rfl
@[simp] theorem setVoice_hzEntries (v : VoiceId) (x : Voice) (s : State) :
    (setVoice v x s).hzEntries = s.hzEntries := rfl
@[simp] theorem setVoice_schedule (v : VoiceId) (x : Voice) (s : State) :
    (setVoice v x s).schedule = s.schedule := rfl
@[simp] theorem setVoice_draws (v : VoiceId) (x : Voice) (s : State) :
    (setVoice v x s).draws = s.draws := rfl
@[simp] theorem setVoice_readData (v : VoiceId) (x : Voice) (s : State) :
    (setVoice v x s).readData = s.readData := rfl

/-! ## `respond` -/

@[simp] theorem respond_voices (r : Word16) (s : State) : (respond r s).voices = s.voices := rfl
@[simp] theorem respond_divEnv (r : Word16) (s : State) : (respond r s).divEnv = s.divEnv := rfl
@[simp] theorem respond_divMod (r : Word16) (s : State) : (respond r s).divMod = s.divMod := rfl
@[simp] theorem respond_bcStart (r : Word16) (s : State) : (respond r s).bcStart = s.bcStart := rfl
@[simp] theorem respond_bcCount (r : Word16) (s : State) : (respond r s).bcCount = s.bcCount := rfl
@[simp] theorem respond_bcLatch (r : Word16) (s : State) : (respond r s).bcLatch = s.bcLatch := rfl
@[simp] theorem respond_tbRef (r : Word16) (s : State) : (respond r s).tbRef = s.tbRef := rfl
@[simp] theorem respond_tbNext (r : Word16) (s : State) : (respond r s).tbNext = s.tbNext := rfl
@[simp] theorem respond_tbPend (r : Word16) (s : State) : (respond r s).tbPend = s.tbPend := rfl
@[simp] theorem respond_out (r : Word16) (s : State) : (respond r s).out = s.out := rfl
@[simp] theorem respond_resp (r : Word16) (s : State) : (respond r s).resp = r := rfl
@[simp] theorem respond_status (r : Word16) (s : State) : (respond r s).status = s.status := rfl
@[simp] theorem respond_faultCmd (r : Word16) (s : State) :
    (respond r s).faultCmd = s.faultCmd := rfl
@[simp] theorem respond_tables (r : Word16) (s : State) : (respond r s).tables = s.tables := rfl
@[simp] theorem respond_pitchTable (r : Word16) (s : State) :
    (respond r s).pitchTable = s.pitchTable := rfl
@[simp] theorem respond_hzEntries (r : Word16) (s : State) :
    (respond r s).hzEntries = s.hzEntries := rfl
@[simp] theorem respond_schedule (r : Word16) (s : State) :
    (respond r s).schedule = s.schedule := rfl
@[simp] theorem respond_draws (r : Word16) (s : State) : (respond r s).draws = s.draws := rfl
@[simp] theorem respond_readData (r : Word16) (s : State) :
    (respond r s).readData = s.readData := rfl

/-! ## `raiseFault` -/

@[simp] theorem raiseFault_voices (c : Cause) (v : VoiceId) (op : Operation) (s : State) :
    (raiseFault c v op s).voices = s.voices := rfl
@[simp] theorem raiseFault_divEnv (c : Cause) (v : VoiceId) (op : Operation) (s : State) :
    (raiseFault c v op s).divEnv = s.divEnv := rfl
@[simp] theorem raiseFault_divMod (c : Cause) (v : VoiceId) (op : Operation) (s : State) :
    (raiseFault c v op s).divMod = s.divMod := rfl
@[simp] theorem raiseFault_bcStart (c : Cause) (v : VoiceId) (op : Operation) (s : State) :
    (raiseFault c v op s).bcStart = s.bcStart := rfl
@[simp] theorem raiseFault_bcCount (c : Cause) (v : VoiceId) (op : Operation) (s : State) :
    (raiseFault c v op s).bcCount = s.bcCount := rfl
@[simp] theorem raiseFault_bcLatch (c : Cause) (v : VoiceId) (op : Operation) (s : State) :
    (raiseFault c v op s).bcLatch = s.bcLatch := rfl
@[simp] theorem raiseFault_tbRef (c : Cause) (v : VoiceId) (op : Operation) (s : State) :
    (raiseFault c v op s).tbRef = s.tbRef := rfl
@[simp] theorem raiseFault_tbNext (c : Cause) (v : VoiceId) (op : Operation) (s : State) :
    (raiseFault c v op s).tbNext = s.tbNext := rfl
@[simp] theorem raiseFault_tbPend (c : Cause) (v : VoiceId) (op : Operation) (s : State) :
    (raiseFault c v op s).tbPend = s.tbPend := rfl
@[simp] theorem raiseFault_out (c : Cause) (v : VoiceId) (op : Operation) (s : State) :
    (raiseFault c v op s).out = s.out := rfl
@[simp] theorem raiseFault_resp (c : Cause) (v : VoiceId) (op : Operation) (s : State) :
    (raiseFault c v op s).resp = s.resp := rfl
@[simp] theorem raiseFault_status (c : Cause) (v : VoiceId) (op : Operation) (s : State) :
    (raiseFault c v op s).status = faultStatus c v (operationTick op) := rfl
@[simp] theorem raiseFault_faultCmd (c : Cause) (v : VoiceId) (op : Operation) (s : State) :
    (raiseFault c v op s).faultCmd = operationWord op := rfl
@[simp] theorem raiseFault_tables (c : Cause) (v : VoiceId) (op : Operation) (s : State) :
    (raiseFault c v op s).tables = s.tables := rfl
@[simp] theorem raiseFault_pitchTable (c : Cause) (v : VoiceId) (op : Operation) (s : State) :
    (raiseFault c v op s).pitchTable = s.pitchTable := rfl
@[simp] theorem raiseFault_hzEntries (c : Cause) (v : VoiceId) (op : Operation) (s : State) :
    (raiseFault c v op s).hzEntries = s.hzEntries := rfl
@[simp] theorem raiseFault_schedule (c : Cause) (v : VoiceId) (op : Operation) (s : State) :
    (raiseFault c v op s).schedule = s.schedule := rfl
@[simp] theorem raiseFault_draws (c : Cause) (v : VoiceId) (op : Operation) (s : State) :
    (raiseFault c v op s).draws = s.draws := rfl
@[simp] theorem raiseFault_readData (c : Cause) (v : VoiceId) (op : Operation) (s : State) :
    (raiseFault c v op s).readData = s.readData := rfl

/-! ## `loadByte` -/

@[simp] theorem loadByte_voices (a : Word16) (b : Byte) (s : State) :
    (loadByte a b s).voices = s.voices := rfl
@[simp] theorem loadByte_divEnv (a : Word16) (b : Byte) (s : State) :
    (loadByte a b s).divEnv = s.divEnv := rfl
@[simp] theorem loadByte_divMod (a : Word16) (b : Byte) (s : State) :
    (loadByte a b s).divMod = s.divMod := rfl
@[simp] theorem loadByte_bcStart (a : Word16) (b : Byte) (s : State) :
    (loadByte a b s).bcStart = s.bcStart := rfl
@[simp] theorem loadByte_bcCount (a : Word16) (b : Byte) (s : State) :
    (loadByte a b s).bcCount = s.bcCount := rfl
@[simp] theorem loadByte_bcLatch (a : Word16) (b : Byte) (s : State) :
    (loadByte a b s).bcLatch = s.bcLatch := rfl
@[simp] theorem loadByte_tbRef (a : Word16) (b : Byte) (s : State) :
    (loadByte a b s).tbRef = s.tbRef := rfl
@[simp] theorem loadByte_tbNext (a : Word16) (b : Byte) (s : State) :
    (loadByte a b s).tbNext = s.tbNext := rfl
@[simp] theorem loadByte_tbPend (a : Word16) (b : Byte) (s : State) :
    (loadByte a b s).tbPend = s.tbPend := rfl
@[simp] theorem loadByte_out (a : Word16) (b : Byte) (s : State) :
    (loadByte a b s).out = s.out := rfl
@[simp] theorem loadByte_resp (a : Word16) (b : Byte) (s : State) :
    (loadByte a b s).resp = s.resp := rfl
@[simp] theorem loadByte_status (a : Word16) (b : Byte) (s : State) :
    (loadByte a b s).status = s.status := rfl
@[simp] theorem loadByte_faultCmd (a : Word16) (b : Byte) (s : State) :
    (loadByte a b s).faultCmd = s.faultCmd := rfl
@[simp] theorem loadByte_tables (a : Word16) (b : Byte) (s : State) :
    (loadByte a b s).tables = putCell s.tables a.toNat b := rfl
@[simp] theorem loadByte_pitchTable (a : Word16) (b : Byte) (s : State) :
    (loadByte a b s).pitchTable = s.pitchTable := rfl
@[simp] theorem loadByte_hzEntries (a : Word16) (b : Byte) (s : State) :
    (loadByte a b s).hzEntries = s.hzEntries := rfl
@[simp] theorem loadByte_schedule (a : Word16) (b : Byte) (s : State) :
    (loadByte a b s).schedule = s.schedule := rfl
@[simp] theorem loadByte_draws (a : Word16) (b : Byte) (s : State) :
    (loadByte a b s).draws = s.draws := rfl
@[simp] theorem loadByte_readData (a : Word16) (b : Byte) (s : State) :
    (loadByte a b s).readData = s.readData := rfl

/-! ## `placeCommand` -/

@[simp] theorem placeCommand_voices (w : Word64) (s : State) :
    (placeCommand w s).voices = s.voices := rfl
@[simp] theorem placeCommand_divEnv (w : Word64) (s : State) :
    (placeCommand w s).divEnv = s.divEnv := rfl
@[simp] theorem placeCommand_divMod (w : Word64) (s : State) :
    (placeCommand w s).divMod = s.divMod := rfl
@[simp] theorem placeCommand_bcStart (w : Word64) (s : State) :
    (placeCommand w s).bcStart = s.bcStart := rfl
@[simp] theorem placeCommand_bcCount (w : Word64) (s : State) :
    (placeCommand w s).bcCount = s.bcCount := rfl
@[simp] theorem placeCommand_bcLatch (w : Word64) (s : State) :
    (placeCommand w s).bcLatch = s.bcLatch := rfl
@[simp] theorem placeCommand_tbRef (w : Word64) (s : State) :
    (placeCommand w s).tbRef = s.tbRef := rfl
@[simp] theorem placeCommand_tbNext (w : Word64) (s : State) :
    (placeCommand w s).tbNext = s.tbNext := rfl
@[simp] theorem placeCommand_tbPend (w : Word64) (s : State) :
    (placeCommand w s).tbPend = s.tbPend := rfl
@[simp] theorem placeCommand_out (w : Word64) (s : State) : (placeCommand w s).out = s.out := rfl
@[simp] theorem placeCommand_resp (w : Word64) (s : State) : (placeCommand w s).resp = s.resp := rfl
@[simp] theorem placeCommand_status (w : Word64) (s : State) :
    (placeCommand w s).status = s.status := rfl
@[simp] theorem placeCommand_faultCmd (w : Word64) (s : State) :
    (placeCommand w s).faultCmd = s.faultCmd := rfl
@[simp] theorem placeCommand_tables (w : Word64) (s : State) :
    (placeCommand w s).tables = s.tables := rfl
@[simp] theorem placeCommand_pitchTable (w : Word64) (s : State) :
    (placeCommand w s).pitchTable = s.pitchTable := rfl
@[simp] theorem placeCommand_hzEntries (w : Word64) (s : State) :
    (placeCommand w s).hzEntries = s.hzEntries := rfl
@[simp] theorem placeCommand_schedule (w : Word64) (s : State) :
    (placeCommand w s).schedule = .hostWrite 0 .w64 w :: s.schedule := rfl
@[simp] theorem placeCommand_draws (w : Word64) (s : State) :
    (placeCommand w s).draws = s.draws := rfl
@[simp] theorem placeCommand_readData (w : Word64) (s : State) :
    (placeCommand w s).readData = s.readData := rfl

/-! ## `stepDividers` -/

@[simp] theorem stepDividers_voices (s : State) : (stepDividers s).voices = s.voices := rfl
@[simp] theorem stepDividers_divEnv (s : State) :
    (stepDividers s).divEnv = BitVec.ofNat 2 ((s.divEnv.toNat + 1) % 4) := rfl
@[simp] theorem stepDividers_divMod (s : State) :
    (stepDividers s).divMod = BitVec.ofNat 10 ((s.divMod.toNat + 1) % 800) := rfl
@[simp] theorem stepDividers_bcStart (s : State) : (stepDividers s).bcStart = s.bcStart := rfl
@[simp] theorem stepDividers_bcCount (s : State) : (stepDividers s).bcCount = s.bcCount := rfl
@[simp] theorem stepDividers_bcLatch (s : State) : (stepDividers s).bcLatch = s.bcLatch := rfl
@[simp] theorem stepDividers_tbRef (s : State) : (stepDividers s).tbRef = s.tbRef := rfl
@[simp] theorem stepDividers_tbNext (s : State) : (stepDividers s).tbNext = s.tbNext := rfl
@[simp] theorem stepDividers_tbPend (s : State) : (stepDividers s).tbPend = s.tbPend := rfl
@[simp] theorem stepDividers_out (s : State) : (stepDividers s).out = s.out := rfl
@[simp] theorem stepDividers_resp (s : State) : (stepDividers s).resp = s.resp := rfl
@[simp] theorem stepDividers_status (s : State) : (stepDividers s).status = s.status := rfl
@[simp] theorem stepDividers_faultCmd (s : State) : (stepDividers s).faultCmd = s.faultCmd := rfl
@[simp] theorem stepDividers_tables (s : State) : (stepDividers s).tables = s.tables := rfl
@[simp] theorem stepDividers_pitchTable (s : State) :
    (stepDividers s).pitchTable = s.pitchTable := rfl
@[simp] theorem stepDividers_hzEntries (s : State) : (stepDividers s).hzEntries = s.hzEntries := rfl
@[simp] theorem stepDividers_schedule (s : State) : (stepDividers s).schedule = s.schedule := rfl
@[simp] theorem stepDividers_draws (s : State) : (stepDividers s).draws = s.draws := rfl
@[simp] theorem stepDividers_readData (s : State) : (stepDividers s).readData = s.readData := rfl

/-! ## The reset action -/

theorem resetAction_eq (s : State) : resetAction s =
    { State.reset with
      tables := s.tables, pitchTable := s.pitchTable, hzEntries := s.hzEntries
      schedule := s.schedule, draws := s.draws, readData := s.readData } := rfl

theorem resetAction_reset : resetAction State.reset = State.reset := rfl

end Sys2Proof.Machine
end

