-- ==== Sys2Proof/Laws/Memory.lean ====
section
/-! SUPPORT. The table store: loading a byte keeps the canonical form, reads back, and leaves every other
address alone. -/

namespace Sys2Proof.Machine

theorem cellsRiseFrom_weaken (t : List Host.Cell) {lo lo' : Nat} (h : cellsRiseFrom lo t = true)
    (hle : lo' ≤ lo) : cellsRiseFrom lo' t = true := by
  cases t with
  | nil => rfl
  | cons c rest =>
    simp only [cellsRiseFrom, Bool.and_eq_true, decide_eq_true_eq] at h ⊢
    exact ⟨⟨by omega, h.1.2⟩, h.2⟩

theorem putCell_keeps_rise (t : List Host.Cell) (lo x : Nat) (b : Byte) (h : cellsRiseFrom lo t = true)
    (hlo : lo ≤ x) (hx : x < 65536) : cellsRiseFrom lo (putCell t x b) = true := by
  induction t generalizing lo with
  | nil => simp [putCell, cellsRiseFrom, hlo, hx]
  | cons c rest ih =>
    obtain ⟨a, y⟩ := c
    simp only [cellsRiseFrom, Bool.and_eq_true, decide_eq_true_eq] at h
    simp only [putCell]
    split
    · simp only [cellsRiseFrom, Bool.and_eq_true, decide_eq_true_eq]
      exact ⟨⟨hlo, hx⟩, ⟨by omega, h.1.2⟩, h.2⟩
    · split
      · next heq => subst heq; simpa only [cellsRiseFrom, Bool.and_eq_true, decide_eq_true_eq] using h
      · simp only [cellsRiseFrom, Bool.and_eq_true, decide_eq_true_eq]
        exact ⟨h.1, ih (a + 1) h.2 (by omega)⟩

theorem loadByte_keeps_wf (a : Word16) (b : Byte) (s : State) (h : tablesWf s.tables = true) :
    tablesWf (loadByte a b s).tables = true :=
  putCell_keeps_rise s.tables 0 a.toNat b h (Nat.zero_le _) a.isLt

theorem readCell_none_below (t : List Host.Cell) (lo x : Nat) (h : cellsRiseFrom lo t = true)
    (hx : x < lo) : readCell t x = none := by
  induction t generalizing lo with
  | nil => rfl
  | cons c rest ih =>
    obtain ⟨a, y⟩ := c
    simp only [cellsRiseFrom, Bool.and_eq_true, decide_eq_true_eq] at h
    simp only [readCell]
    rw [if_neg (by omega)]
    exact ih (a + 1) h.2 (by omega)

theorem readCell_putCell_same (t : List Host.Cell) (x : Nat) (b : Byte) :
    readCell (putCell t x b) x = some b := by
  induction t with
  | nil => simp [putCell, readCell]
  | cons c rest ih =>
    obtain ⟨a, y⟩ := c
    simp only [putCell]
    split
    · simp [readCell]
    · split
      · simp [readCell]
      · next hne => simp only [readCell]; rw [if_neg (fun h => hne h.symm)]; exact ih

theorem readCell_putCell_other (t : List Host.Cell) (x z : Nat) (b : Byte) (hz : z ≠ x) :
    readCell (putCell t x b) z = readCell t z := by
  induction t with
  | nil => simp [putCell, readCell, Ne.symm hz]
  | cons c rest ih =>
    obtain ⟨a, y⟩ := c
    simp only [putCell]
    split
    · simp [readCell, Ne.symm hz]
    · split
      · next heq => subst heq; simp [readCell, Ne.symm hz]
      · simp only [readCell]; split <;> simp [ih]

theorem memRead_loadByte_same (a : Word16) (b : Byte) (s : State) :
    memRead (loadByte a b s).tables a = b := by
  simp [memRead, readCell_putCell_same]

theorem memRead_loadByte_other (a z : Word16) (b : Byte) (s : State) (h : z ≠ a) :
    memRead (loadByte a b s).tables z = memRead s.tables z := by
  have hz : z.toNat ≠ a.toNat := fun e => h (BitVec.eq_of_toNat_eq e)
  simp [memRead, readCell_putCell_other _ _ _ _ hz]

theorem reset_tables_wf : tablesWf State.reset.tables = true := rfl

theorem resetAction_keeps_wf (s : State) (h : tablesWf s.tables = true) :
    tablesWf (resetAction s).tables = true := h

end Sys2Proof.Machine
end

