-- ==== Sys2Proof/Laws/Ops.lean ====
section
/-! SUPPORT. What the shared operations of a command can do: `whenRunning`, `raiseFault` and the meanings
built on them, once. -/

namespace Sys2Proof.Machine

@[simp] theorem whenRunning_running (body : State → State) (s : State) (h : s.faulted = false) :
    whenRunning body s = .next (body s) := by simp [whenRunning, h]

@[simp] theorem whenRunning_halted (body : State → State) (s : State) (h : s.faulted = true) :
    whenRunning body s = .next s := by simp [whenRunning, h]

/-- A command always answers a next state: the state itself on a halted block, else its body's. -/
theorem whenRunning_next {body : State → State} {s t : State} (h : whenRunning body s = .next t) :
    (s.faulted = true ∧ t = s) ∨ (s.faulted = false ∧ t = body s) := by
  unfold whenRunning at h
  cases hf : s.faulted <;> simp_all

/-! ## The fields of a latched `STATUS` -/

@[simp] theorem statusFaulted_faultStatus (c : Cause) (v : VoiceId) (ftick : Bool) :
    statusFaulted (faultStatus c v ftick) = true := by
  cases c <;> cases v <;> cases ftick <;> rfl

@[simp] theorem statusCause_faultStatus (c : Cause) (v : VoiceId) (ftick : Bool) :
    statusCause (faultStatus c v ftick) = causeCode c := by
  cases c <;> cases v <;> cases ftick <;> rfl

@[simp] theorem statusVoice_faultStatus (c : Cause) (v : VoiceId) (ftick : Bool) :
    statusVoice (faultStatus c v ftick) = bitsOfVoice v := by
  cases c <;> cases v <;> cases ftick <;> rfl

@[simp] theorem statusTick_faultStatus (c : Cause) (v : VoiceId) (ftick : Bool) :
    statusTick (faultStatus c v ftick) = ftick := by
  cases c <;> cases v <;> cases ftick <;> rfl

@[simp] theorem faulted_raiseFault (c : Cause) (v : VoiceId) (op : Operation) (s : State) :
    (raiseFault c v op s).faulted = true :=
  statusFaulted_faultStatus c v (operationTick op)

@[simp] theorem faulted_setVoice (v : VoiceId) (x : Voice) (s : State) :
    (setVoice v x s).faulted = s.faulted := rfl

@[simp] theorem faulted_respond (r : Word16) (s : State) : (respond r s).faulted = s.faulted := rfl

/-! ## What a command's next state is, meaning by meaning -/

/-- The state a command leaves on a running block. -/
def commandBody : Instr → State → State
  | .setup v wref winc eref einc mdep => fun s => respond 0 (setVoice v
      { s.voice v with
        wref := wref, wrefV := true, wpi := winc, base := winc, eref := eref, erefV := true
        epi := einc, mdep := BitVec.ofInt 11 mdep } s)
  | .triggerMidi v note => fun s => respond 0 (startNote v (pitchInc s note) s)
  | .retrigger v => fun s => respond 0 (setVoice v { s.voice v with epa := 0 } s)
  | .triggerHz v freq => fun s =>
      if freq = 0 then raiseFault .freqZero v (.command (encode (.triggerHz v freq))) s
      else respond 0 (startNote v (hzInc s freq) s)
  | .getAmp v => fun s => respond ((s.voice v).amp.setWidth 16) s
  | .setBpm bpm => fun s =>
      if bpm = 0 then raiseFault .bpmZero .v0 (.command (encode (.setBpm bpm))) s
      else respond 0 { s with bcStart := beatStart bpm, bcCount := beatStart bpm, bcLatch := false }
  | .beatComplete => fun s => respond (flagWord s.bcLatch) { s with bcLatch := false }

theorem exec_eq (i : Instr) (s : State) : exec i s = whenRunning (commandBody i) s := by
  cases i <;> rfl

/-- On a running block a command answers its body's state. -/
theorem exec_running (i : Instr) (s : State) (h : s.faulted = false) :
    exec i s = .next (commandBody i s) := by rw [exec_eq, whenRunning_running _ _ h]

/-- A halted block ignores a command. -/
theorem exec_halted (i : Instr) (s : State) (h : s.faulted = true) : exec i s = .next s := by
  rw [exec_eq, whenRunning_halted _ _ h]

/-- A command that answers leaves a halted block as it was, or leaves its body's state. -/
theorem exec_next {i : Instr} {s t : State} (h : exec i s = .next t) :
    (s.faulted = true ∧ t = s) ∨ (s.faulted = false ∧ t = commandBody i s) :=
  whenRunning_next (exec_eq i s ▸ h)

end Sys2Proof.Machine
end

