-- ==== Sys2Proof/Laws/PerInstr.lean ====
section
/-! SUPPORT. The family `OpcodeField`: the word of every command, well formed or not, carries in [63:61] the
opcode of its row of the opcode map (30_encoding.md rules R81, R88), one lemma per constructor. -/

namespace Sys2Proof.Laws.OpcodeField

/-- The command's row stands in the opcode map, and its word carries the row's opcode. -/
def Statement (i : Instr) : Prop :=
  rowOf i ∈ opcodeMap ∧ (encode i).toNat / 2 ^ 61 = (rowOf i).op.toNat

/-- A word packed with an opcode carries it. -/
theorem packed (op vv payload : Nat) (ho : op < 8) (hv : vv < 4) (hp : payload < 2 ^ 59) :
    (packWord op vv payload).toNat / 2 ^ 61 = op := by
  rw [packWord_toNat op vv payload ho hv hp]
  omega

theorem setup (v : VoiceId) (wref : Byte) (winc : Word16) (eref : Byte) (einc : Word16) (mdep : Int) :
    Statement (.setup v wref winc eref einc mdep) :=
  ⟨by simp [rowOf, opcodeMap],
    packed 1 _ _ (by decide) (bitsOfVoice v).isLt (setupPayload_lt wref winc eref einc _)⟩

theorem triggerMidi (v : VoiceId) (note : BitVec 7) : Statement (.triggerMidi v note) :=
  ⟨by simp [rowOf, opcodeMap],
    packed 2 _ _ (by decide) (bitsOfVoice v).isLt (by have := note.isLt; omega)⟩

theorem retrigger (v : VoiceId) : Statement (.retrigger v) :=
  ⟨by simp [rowOf, opcodeMap], packed 3 _ _ (by decide) (bitsOfVoice v).isLt (by decide)⟩

theorem triggerHz (v : VoiceId) (freq : Word16) : Statement (.triggerHz v freq) :=
  ⟨by simp [rowOf, opcodeMap],
    packed 4 _ _ (by decide) (bitsOfVoice v).isLt (by have := freq.isLt; omega)⟩

theorem getAmp (v : VoiceId) : Statement (.getAmp v) :=
  ⟨by simp [rowOf, opcodeMap], packed 5 _ _ (by decide) (bitsOfVoice v).isLt (by decide)⟩

theorem setBpm (bpm : Byte) : Statement (.setBpm bpm) :=
  ⟨by simp [rowOf, opcodeMap], packed 6 0 _ (by decide) (by decide) (by have := bpm.isLt; omega)⟩

theorem beatComplete : Statement .beatComplete :=
  ⟨by simp [rowOf, opcodeMap], packed 7 0 0 (by decide) (by decide) (by decide)⟩

end Sys2Proof.Laws.OpcodeField
end

