-- ==== Sys2Proof/Laws/Sample.lean ====
section
/-! SUPPORT. What one voice's part of a tick, the four voices together and the whole tick can do, each
said once. -/

namespace Sys2Proof.Machine

/-! ## The sentinel and the table indexes as numbers -/

theorem sentinel_iff (e : Word16) : sentinel e = true ↔ 32768 ≤ e.toNat := by
  unfold sentinel
  rw [← BitVec.msb_eq_getLsbD_last (x := e), BitVec.msb_eq_decide]
  simp

theorem sentinel_false_iff (e : Word16) : sentinel e = false ↔ e.toNat < 32768 := by
  rw [← Bool.not_eq_true, sentinel_iff]
  omega

theorem envIndex_toNat (e : Word16) : (envIndex e).toNat = e.toNat / 128 % 256 := by
  simp [envIndex, Nat.shiftRight_eq_div_pow]

theorem waveIndex_toNat (e : Word16) : (waveIndex e).toNat = e.toNat / 256 := by
  have := e.isLt
  simp [waveIndex, Nat.shiftRight_eq_div_pow]
  omega

/-! ## One voice -/

/-- The envelope step answers in two cases: the note is over, or its table is set and it advances. -/
theorem envelopeStep_some {t : List Host.Cell} {x y : Voice} (h : envelopeStep t x = some y) :
    (sentinel x.epa = true ∧ y = { x with amp := 0 }) ∨
    (sentinel x.epa = false ∧ x.erefV = true ∧
      y = { x with
        epa := x.epa + x.epi
        amp := if sentinel (x.epa + x.epi) then 0
               else tableRead t x.eref (envIndex (x.epa + x.epi)) }) := by
  unfold envelopeStep at h
  split at h
  · next hs => exact .inl ⟨hs, (Option.some.inj h).symm⟩
  · next hs =>
    split at h
    · next hv => exact .inr ⟨by simpa using hs, hv, (Option.some.inj h).symm⟩
    · cases h

theorem envelopeStep_none {t : List Host.Cell} {x : Voice} (h : envelopeStep t x = none) :
    sentinel x.epa = false ∧ x.erefV = false := by
  unfold envelopeStep at h
  split at h
  · cases h
  · next hs =>
    split at h
    · cases h
    · next hv => exact ⟨by simpa using hs, by simpa using hv⟩

/-- The sample step answers in two cases: the voice is silent, or its wave table is set. -/
theorem sampleStep_some {t : List Host.Cell} {x : Voice} {n : Int} (h : sampleStep t x = some n) :
    (x.amp = 0 ∧ n = 0) ∨
    (x.amp ≠ 0 ∧ x.wrefV = true ∧
      n = asr (sext8 (tableRead t x.wref (waveIndex x.wpa)) * x.amp.toNat) 8) := by
  unfold sampleStep at h
  split at h
  · next ha => exact .inl ⟨ha, (Option.some.inj h).symm⟩
  · next ha =>
    split at h
    · next hv => exact .inr ⟨ha, hv, (Option.some.inj h).symm⟩
    · cases h

theorem sampleStep_none {t : List Host.Cell} {x : Voice} (h : sampleStep t x = none) :
    x.amp ≠ 0 ∧ x.wrefV = false := by
  unfold sampleStep at h
  split at h
  · cases h
  · next ha =>
    split at h
    · cases h
    · next hv => exact ⟨ha, by simpa using hv⟩

/-- A voice that gives a sample: the envelope step on update ticks, then the oscillator, then the sample. -/
theorem voiceSample_sample {t : List Host.Cell} {updEnv applyMod : Bool} {x y : Voice} {n : Int}
    (h : voiceSample t updEnv applyMod x = .sample y n) :
    ∃ x1, ((updEnv = true ∧ envelopeStep t x = some x1) ∨ (updEnv = false ∧ x1 = x)) ∧
      y = oscillatorStep x1 ∧ sampleStep t y = some n := by
  unfold voiceSample at h
  split at h
  · cases h
  · next x1 he =>
    simp only [modulationHook, ite_self] at h
    split at h
    · cases h
    · next value hs =>
      cases h
      refine ⟨x1, ?_, rfl, hs⟩
      cases updEnv
      · exact .inr ⟨rfl, (Option.some.inj (by simpa using he)).symm⟩
      · exact .inl ⟨rfl, by simpa using he⟩

/-- A voice that faults: its envelope table is unset on an update tick, or its wave table is unset. -/
theorem voiceSample_fault {t : List Host.Cell} {updEnv applyMod : Bool} {x : Voice} {c : Cause}
    (h : voiceSample t updEnv applyMod x = .fault c) :
    (c = .unsetEnvTable ∧ updEnv = true ∧ envelopeStep t x = none) ∨
    (c = .unsetWaveTable ∧ ∃ x1,
      ((updEnv = true ∧ envelopeStep t x = some x1) ∨ (updEnv = false ∧ x1 = x)) ∧
      sampleStep t (oscillatorStep x1) = none) := by
  unfold voiceSample at h
  split at h
  · next he =>
    cases h
    cases updEnv
    · simp at he
    · exact .inl ⟨rfl, rfl, by simpa using he⟩
  · next x1 he =>
    simp only [modulationHook, ite_self] at h
    split at h
    · next hs =>
      cases h
      refine .inr ⟨rfl, x1, ?_, hs⟩
      cases updEnv
      · exact .inr ⟨rfl, (Option.some.inj (by simpa using he)).symm⟩
      · exact .inl ⟨rfl, by simpa using he⟩
    · cases h

/-- The four voices give an output exactly when each gives a sample. -/
theorem runEngine_output {t : List Host.Cell} {updEnv applyMod : Bool} {vs us : Voices} {out : Byte}
    (h : runEngine t updEnv applyMod vs = .output us out) :
    ∃ n : VoiceId → Int, (∀ v, voiceSample t updEnv applyMod (vs.get v) = .sample (us.get v) (n v)) ∧
      out = mix (n .v0) (n .v1) (n .v2) (n .v3) := by
  unfold runEngine at h
  split at h
  · cases h
  · next x0 s0 h0 =>
    split at h
    · cases h
    · next x1 s1 h1 =>
      split at h
      · cases h
      · next x2 s2 h2 =>
        split at h
        · cases h
        · next x3 s3 h3 =>
          cases h
          refine ⟨fun v => match v with | .v0 => s0 | .v1 => s1 | .v2 => s2 | .v3 => s3, ?_, rfl⟩
          intro v
          cases v <;> assumption

/-- A fault of the four voices is a fault of the voice it names. -/
theorem runEngine_fault {t : List Host.Cell} {updEnv applyMod : Bool} {vs : Voices} {c : Cause}
    {v : VoiceId} (h : runEngine t updEnv applyMod vs = .fault c v) :
    voiceSample t updEnv applyMod (vs.get v) = .fault c := by
  unfold runEngine at h
  split at h
  · next h0 => cases h; exact h0
  · split at h
    · next h1 => cases h; exact h1
    · split at h
      · next h2 => cases h; exact h2
      · split at h
        · next h3 => cases h; exact h3
        · cases h

/-- The beat clock's step writes `BC_COUNT` and `BC_LATCH` and nothing else. -/
theorem beatTick_frame (s : State) :
    beatTick s = { s with bcCount := (beatTick s).bcCount, bcLatch := (beatTick s).bcLatch } := by
  unfold beatTick
  split
  · rfl
  · split <;> rfl

/-- The gates a tick of `s` gives the voices (R112). -/
def updEnvOf (s : State) : Bool := (stepDividers s).divEnv == 0

/-- The modulation gate of a tick of `s` (R112). -/
def applyModOf (s : State) : Bool := (stepDividers s).divMod == 0

/-- A tick does one of three things: on a halted block it only clears `TB_PEND`; a voice faults and the
record is latched; or every voice gives a sample and the tick completes. -/
theorem tick_cases (s : State) :
    (s.faulted = true ∧ tick s = { s with tbPend := false }) ∨
    (s.faulted = false ∧ ∃ c v,
      runEngine s.tables (updEnvOf s) (applyModOf s) s.voices = .fault c v ∧
      tick s = raiseFault c v .tick { s with tbPend := false }) ∨
    (s.faulted = false ∧ ∃ vs out,
      runEngine s.tables (updEnvOf s) (applyModOf s) s.voices = .output vs out ∧
      tick s = beatTick { stepDividers { s with tbPend := false } with voices := vs, out := out }) := by
  have hf : ({ s with tbPend := false } : State).faulted = s.faulted := rfl
  cases h : s.faulted
  · refine .inr ?_
    have ht : tick s = tickBody { s with tbPend := false } := by simp [tick, hf, h]
    cases hr : runEngine s.tables (updEnvOf s) (applyModOf s) s.voices with
    | fault c v =>
      refine .inl ⟨rfl, c, v, rfl, ?_⟩
      rw [ht]; unfold tickBody
      simp only [updEnvOf, applyModOf, stepDividers] at hr
      simp only [stepDividers, hr]
    | output vs out =>
      refine .inr ⟨rfl, vs, out, rfl, ?_⟩
      rw [ht]; unfold tickBody
      simp only [updEnvOf, applyModOf, stepDividers] at hr
      simp only [stepDividers, hr]
  · exact .inl ⟨rfl, by simp [tick, hf, h]⟩

/-- A tick that leaves no fault latched ran on a running block and completed. -/
theorem tick_completed {s : State} (h : (tick s).faulted = false) :
    s.faulted = false ∧ ∃ vs out,
      runEngine s.tables (updEnvOf s) (applyModOf s) s.voices = .output vs out ∧
      tick s = beatTick { stepDividers { s with tbPend := false } with voices := vs, out := out } := by
  rcases tick_cases s with ⟨hf, ht⟩ | ⟨_, c, v, _, ht⟩ | ⟨hf, vs, out, hr, ht⟩
  · rw [ht] at h
    exact absurd (hf.symm.trans h) (by decide)
  · rw [ht, faulted_raiseFault] at h
    cases h
  · exact ⟨hf, vs, out, hr, ht⟩

/-- What a completed tick makes of a voice is that voice's own sample step. -/
theorem tick_completed_voice {s : State} (h : (tick s).faulted = false) (v : VoiceId) :
    ∃ n, voiceSample s.tables (updEnvOf s) (applyModOf s) (s.voice v) = .sample ((tick s).voice v) n := by
  obtain ⟨_, vs, out, hr, ht⟩ := tick_completed h
  obtain ⟨n, hn, _⟩ := runEngine_output hr
  rw [ht, beatTick_frame]
  exact ⟨n v, hn v⟩

end Sys2Proof.Machine
end

