-- ==== Sys2Proof/Laws/Step.lean ====
section
/-! SUPPORT. What one step can do, said once: one case per kind of turn. -/

namespace Sys2Proof.Machine

theorem nextTurn_cons (s : State) (turn : Turn) (rest : List Turn) (h : s.schedule = turn :: rest) :
    nextTurn s = turn := by simp [nextTurn, h]

theorem popTurn_cons (s : State) (turn : Turn) (rest : List Turn) (h : s.schedule = turn :: rest) :
    popTurn s = { s with schedule := rest } := by simp [popTurn, h]

/-- A free stretch is never empty: it ends in a reference cycle. -/
theorem freeTurns_ne_nil (k : Nat) : freeTurns k ≠ [] := by simp [freeTurns]

/-- With no turn scheduled, a free stretch is drawn: its first turn is next and the rest is scheduled. -/
theorem nextTurn_nil (s : State) (h : s.schedule = []) :
    freeTurns s.draws = nextTurn s :: (popTurn s).schedule := by
  simp only [nextTurn, popTurn, h]
  cases hf : freeTurns s.draws with
  | nil => exact absurd hf (freeTurns_ne_nil _)
  | cons turn rest => rfl

/-- Taking a turn writes the model's own `schedule` and `draws` and nothing else. -/
theorem popTurn_frame (s : State) :
    popTurn s = { s with schedule := (popTurn s).schedule, draws := (popTurn s).draws } := by
  unfold popTurn
  split <;> rfl

/-- A command word answers a next state: ignored on a halted block, an illegal word latched, or the
decoded command's. -/
theorem issueCommand_next {w : Word64} {s t : State} (h : issueCommand w s = .next t) :
    (s.faulted = true ∧ t = s) ∨
    (s.faulted = false ∧ (∃ why, decode w = .illegal why) ∧
      t = raiseFault .illegalCommand .v0 (.command w) s) ∨
    (s.faulted = false ∧ ∃ i, decode w = .command i ∧ t = commandBody i s) := by
  unfold issueCommand at h
  split at h
  · next hf => cases h; exact .inl ⟨hf, rfl⟩
  · next hf =>
    have hf : s.faulted = false := by simpa using hf
    split at h
    · next why hd => cases h; exact .inr (.inl ⟨hf, ⟨why, hd⟩, rfl⟩)
    · next i hd =>
      rcases exec_next h with ⟨hf', _⟩ | ⟨_, ht⟩
      · rw [hf] at hf'; cases hf'
      · exact .inr (.inr ⟨hf, i, hd, ht⟩)

theorem isCommandWrite_iff (off : Nat) (width : Width) :
    isCommandWrite off width = true ↔ off = 0 ∧ width = .w64 := by
  cases width <;> simp [isCommandWrite]

/-- A host read writes the model's own `readData` and `draws` and nothing else. -/
theorem hostRead_frame (off : Nat) (width : Width) (s : State) :
    hostRead off width s =
      { s with readData := (hostRead off width s).readData, draws := (hostRead off width s).draws } := by
  unfold hostRead
  split <;> rfl

/-- A tick leaves the schedule and the timebase's counters. -/
theorem tick_schedule_timebase (s : State) :
    (tick s).schedule = s.schedule ∧ (tick s).tbRef = s.tbRef ∧ (tick s).tbNext = s.tbNext := by
  rcases tick_cases s with ⟨_, h⟩ | ⟨_, _, _, _, h⟩ | ⟨_, _, _, _, h⟩ <;> rw [h]
  · exact ⟨rfl, rfl, rfl⟩
  · exact ⟨rfl, rfl, rfl⟩
  · rw [beatTick_frame]; exact ⟨rfl, rfl, rfl⟩

/-- A command leaves the schedule and the timebase. -/
theorem commandBody_schedule_timebase (i : Instr) (s : State) :
    (commandBody i s).schedule = s.schedule ∧ (commandBody i s).tbRef = s.tbRef ∧
    (commandBody i s).tbNext = s.tbNext ∧ (commandBody i s).tbPend = s.tbPend := by
  cases i <;> simp [commandBody] <;> (try split) <;> exact ⟨rfl, rfl, rfl, rfl⟩

/-- Every kind of step. -/
theorem step_cases {s t : State} (h : step s = .next t) :
    (nextTurn s = .refCycle ∧ t = refCycleTurn (popTurn s)) ∨
    (nextTurn s = .tick ∧ t = tickTurn (popTurn s)) ∨
    (∃ w, issues s w ∧ issueCommand w (popTurn s) = .next t) ∨
    (∃ off width data, nextTurn s = .hostWrite off width data ∧ isCommandWrite off width = false ∧
      t = popTurn s) ∨
    (∃ off width, nextTurn s = .hostRead off width ∧ t = hostRead off width (popTurn s)) ∨
    (nextTurn s = .reset ∧ t = resetAction (popTurn s)) := by
  unfold step at h
  cases hn : nextTurn s with
  | refCycle => rw [hn] at h; cases h; exact .inl ⟨rfl, rfl⟩
  | tick => rw [hn] at h; cases h; exact .inr (.inl ⟨rfl, rfl⟩)
  | hostWrite off width data =>
    rw [hn] at h
    simp only [runTurn, hostWrite] at h
    split at h
    · next hc =>
      obtain ⟨rfl, rfl⟩ := (isCommandWrite_iff off width).1 hc
      exact .inr (.inr (.inl ⟨data, hn, h⟩))
    · next hc =>
      cases h
      exact .inr (.inr (.inr (.inl ⟨off, width, data, rfl, by simpa using hc, rfl⟩)))
  | hostRead off width =>
    rw [hn] at h; cases h
    exact .inr (.inr (.inr (.inr (.inl ⟨off, width, rfl, rfl⟩))))
  | reset =>
    rw [hn] at h; cases h
    exact .inr (.inr (.inr (.inr (.inr ⟨rfl, rfl⟩))))

/-- Only a reference cycle's turn can put a turn back: every other step leaves the schedule as taking its
turn left it. -/
theorem step_schedule {s t : State} (h : step s = .next t) (hn : nextTurn s ≠ .refCycle) :
    t.schedule = (popTurn s).schedule := by
  rcases step_cases h with ⟨h', _⟩ | ⟨_, e⟩ | ⟨_, _, e⟩ | ⟨_, _, _, _, _, e⟩ | ⟨_, _, _, e⟩ | ⟨_, e⟩
  · exact absurd h' hn
  · rw [e]; unfold tickTurn; split
    · exact (tick_schedule_timebase _).1
    · rfl
  · rcases issueCommand_next e with ⟨_, e⟩ | ⟨_, _, e⟩ | ⟨_, i, _, e⟩ <;> rw [e]
    · rfl
    · exact (commandBody_schedule_timebase i _).1
  · rw [e]
  · rw [e, hostRead_frame]
  · rw [e]; rfl

end Sys2Proof.Machine
end

