-- ==== Sys2Proof/Tests/Slice0.lean ====
section
/-! SUPPORT. The model's own tests: words written out from 30_encoding.md, vectors of 95_test_vectors.md,
and for each statement with premises a witness that meets them. -/

open Sys2Proof Sys2Proof.Machine

/-! ## Small states -/

/-- Reset with these turns next. -/
def Tests.before (turns : List Turn) : State := { State.reset with schedule := turns }

/-- Reset with a command word next. -/
def Tests.commanded (w : Word64) : State := Tests.before [.hostWrite 0 .w64 w]

/-- Reset with voice 0 replaced. -/
def Tests.withVoice (x : Voice) : State := setVoice .v0 x State.reset

/-- A voice set up on pages 1 (wave) and 2 (envelope) with its note just triggered. -/
def Tests.sounding : Voice :=
  { Voice.reset with wref := 1, wrefV := true, eref := 2, erefV := true, epa := 0, epi := 0x0080 }

/-- Bytes of pages 1 and 2 of 95_test_vectors.md: SAW[0x80] and SAW[0xA0], DOWN[0], DOWN[1], DOWN[128]. -/
def Tests.pages : List Host.Cell :=
  [(0x180, 0x80), (0x1A0, 0xA0), (0x200, 255), (0x201, 254), (0x280, 127)]

/-- The envelope part of a tick, on the test pages. -/
def Tests.envelope (epa epi : Word16) (erefV : Bool) : Option (Word16 × Byte) :=
  (envelopeStep Tests.pages { Tests.sounding with epa := epa, epi := epi, erefV := erefV, amp := 77 }).map
    fun y => (y.epa, y.amp)

/-- A halted block: word 0 was written at reset. -/
def Tests.halted : State := raiseFault .illegalCommand .v0 (.command 0) State.reset

/-- Voice 2 triggered at reset with no `SETUP`, three ticks run (95_test_vectors.md L3.4). -/
def Tests.unsetVoice2 : State :=
  { setVoice .v2 { Voice.reset with epa := 0 } State.reset with divEnv := 3, divMod := 3, tbPend := true }

/-! ## Well-formedness smoke -/

theorem test_wellFormed_bounds :
    (Instr.setup .v0 0 0 0 0 1023).wellFormed = true ∧ (Instr.setup .v0 0 0 0 0 (-1024)).wellFormed = true ∧
    (Instr.setup .v0 0 0 0 0 1024).wellFormed = false ∧
    (Instr.setup .v0 0 0 0 0 (-1025)).wellFormed = false := by decide

/-! ## Decoding: words written out bit by bit from rules R82 to R87 (op, vv, fields) -/

theorem test_decode_setup :
    decode (0b001#3 ++ 0b01#2 ++ 0x10#8 ++ 0x0E14#16 ++ 0x20#8 ++ 0x0010#16 ++ 0b11000000000#11) =
      .command (.setup .v1 0x10 3604 0x20 16 (-512)) := by decide

theorem test_decode_triggerMidi :
    decode (0b010#3 ++ 0b10#2 ++ 0#52 ++ 0b1111111#7) = .command (.triggerMidi .v2 127) := by decide

theorem test_decode_retrigger : decode (0b011#3 ++ 0b01#2 ++ 0#59) = .command (.retrigger .v1) := by decide

theorem test_decode_triggerHz :
    decode (0b100#3 ++ 0b11#2 ++ 0#43 ++ 0b0000000110111000#16) = .command (.triggerHz .v3 440) := by decide

theorem test_decode_getAmp : decode (0b101#3 ++ 0b10#2 ++ 0#59) = .command (.getAmp .v2) := by decide

theorem test_decode_setBpm : decode (0b110#3 ++ 0#53 ++ 0b00111100#8) = .command (.setBpm 60) := by decide

theorem test_decode_beatComplete : decode (0b111#3 ++ 0#61) = .command .beatComplete := by decide

/-- L2.1: illegal words. -/
theorem test_decode_rejects :
    decode 0x1FFFFFFFFFFFFFFF = .illegal .reservedOpcode ∧ decode 0x6000000000000001 = .illegal .reservedBits ∧
    decode 0x8000000000010001 = .illegal .reservedBits ∧ decode 0xC000000000000100 = .illegal .reservedBits ∧
    decode 0xE800000000000000 = .illegal .reservedBits := by decide

/-- L2.1: boundary words. -/
theorem test_decode_boundaries :
    decode 0x3FFFFFFFFFFFFFFF = .command (.setup .v3 255 0xFFFF 255 0xFFFF (-1)) ∧
    decode 0x2000000000000000 = .command (.setup .v0 0 0 0 0 0) ∧
    decode 0x800000000000FFFF = .command (.triggerHz .v0 65535) ∧
    decode 0xC0000000000000FF = .command (.setBpm 255) := by decide

/-- R98: the assembler's words. -/
theorem test_encode_words :
    encode (.setup .v0 1 0x0100 2 0x0080 512) = 0x2008080010040200 ∧
    encode (.triggerMidi .v0 69) = 0x4000000000000045 ∧ encode (.triggerHz .v3 440) = 0x98000000000001B8 ∧
    encode (.getAmp .v2) = 0xB000000000000000 ∧ encode .beatComplete = 0xE000000000000000 := by decide

/-- R97, R98, R161: `SETUP_HZ` of 440 Hz and one second gives the increments 3604 and 16. -/
theorem test_assemble_setupHz :
    assemble (.setupHz 1 0x10 ⟨440, 1⟩ 0x20 ⟨1, 1⟩ (-512)) = some 0x288070A100008600 := by decide

theorem test_tableWord_runs_first :
    step (State.reset.withFetchWord 64 0xC00000000000003C) =
      .next { State.reset with bcStart := 2000, bcCount := 2000 } := rfl

/-! ## Commands (95_test_vectors.md L2.7, L2.8, L2.9) -/

theorem test_setup_from_reset :
    (commandBody (.setup .v0 1 0x0100 2 0x0080 512) State.reset).voice .v0 =
      { Voice.reset with wref := 1, wrefV := true, wpi := 0x0100, base := 0x0100, eref := 2, erefV := true,
                         epi := 0x0080, mdep := 512 } := by decide

theorem test_triggerMidi_notes :
    ((commandBody (.triggerMidi .v0 0) State.reset).voice .v0).wpi = 67 ∧
    ((commandBody (.triggerMidi .v0 119) State.reset).voice .v0).wpi = 64734 ∧
    ((commandBody (.triggerMidi .v0 127) State.reset).voice .v0).wpi = 37223 := by decide

theorem test_triggerHz_increments :
    [1, 2, 3, 4, 5, 8, 16, 31, 32, 440, 65535].map
      (fun f => ((commandBody (.triggerHz .v0 f) State.reset).voice .v0).wpi) =
      [31, 15, 10, 7, 6, 3, 1, 1, 0, 0, 0] := by decide

theorem test_triggerHz_zero :
    exec (.triggerHz .v3 0) State.reset =
      .next { State.reset with status := 0x003B, faultCmd := 0x9800000000000000 } := rfl

theorem test_getAmp :
    exec (.getAmp .v0) (Tests.withVoice { Voice.reset with amp := 200 }) =
      .next { Tests.withVoice { Voice.reset with amp := 200 } with resp := 0x00C8 } := rfl

theorem test_setBpm_table :
    [1, 7, 60, 240, 255].map (fun b => (commandBody (.setBpm b) State.reset).bcStart) =
      [120000, 17142, 2000, 500, 470] := by decide

theorem test_beatComplete_latched :
    exec .beatComplete { State.reset with bcLatch := true } = .next { State.reset with resp := 1 } := rfl

theorem test_retrigger_only_epa :
    exec (.retrigger .v0) State.reset = .next (Tests.withVoice { Voice.reset with epa := 0 }) := rfl

/-- L2.9: word 0 at reset. -/
theorem test_illegal_word : step (Tests.commanded 0) = .next { State.reset with status := 0x0003 } := rfl

/-! ## Tick (L2.2 to L2.6, L3) -/

theorem test_envelope_rows :
    Tests.envelope 0x0000 0x0080 true = some (0x0080, 254) ∧ Tests.envelope 0x0000 0x0000 true = some (0, 255) ∧
    Tests.envelope 0x0000 0x8000 true = some (0x8000, 0) ∧ Tests.envelope 0x4000 0xC080 true = some (0x0080, 254) ∧
    Tests.envelope 0xFFFF 0x0001 true = some (0xFFFF, 0) ∧ Tests.envelope 0x8000 0x0080 false = some (0x8000, 0) ∧
    Tests.envelope 0x0000 0x0080 false = none := by decide

theorem test_sample_rows :
    asr (sext8 0x80 * 255) 8 = -128 ∧ asr (sext8 0x7F * 255) 8 = 126 ∧ asr (sext8 0xFF * 1) 8 = -1 ∧
    asr (sext8 0x01 * 255) 8 = 0 ∧ asr (sext8 0xC0 * 128) 8 = -32 := by decide

theorem test_mixer_rows :
    mix 10 20 30 40 = 152 ∧ mix 126 126 126 126 = 253 ∧ mix (-1) 0 0 0 = 126 ∧ mix (-128) (-128) (-128) (-124) = 0 ∧
    mix (-128) (-128) (-128) (-125) = 255 ∧ mix (-128) (-128) (-128) (-128) = 255 := by decide

theorem test_beat_rollover :
    beatTick { State.reset with bcStart := 2000, bcCount := 1 } =
      { State.reset with bcStart := 2000, bcCount := 2000, bcLatch := true } := rfl

theorem test_refCycle_wrap :
    refCycle { State.reset with tbRef := 65499, tbNext := 65500 } =
      { State.reset with tbRef := 65500, tbNext := 214, tbPend := true } := rfl

/-- L3.1, tick 4: `AMP` 254, sample -127, `OUT` 95. -/
theorem test_tick_sounding :
    let s := tick { Tests.withVoice { Tests.sounding with wpa := 0x6000, wpi := 0x2000 } with
      divEnv := 3, divMod := 3, tables := Tests.pages }
    (s.voice .v0).wpa = 0x8000 ∧ (s.voice .v0).epa = 0x0080 ∧ (s.voice .v0).amp = 254 ∧ s.out = 95 := by decide

/-- L3.4, tick 4: the fault record, and `DIV_ENV` as before the tick. -/
theorem test_tick_fault :
    tick Tests.unsetVoice2 = { Tests.unsetVoice2 with tbPend := false, status := 0x0065 } := rfl

/-- L2.9: a tick on a halted block clears `TB_PEND` and nothing else. -/
theorem test_tick_halted :
    tick { Tests.halted with tbPend := true } = { Tests.halted with tbPend := false } := rfl

/-- 93_implementation_defined.md V5: the reserved bytes read 0; a part of `CMD` does too. -/
theorem test_reads_zero :
    (hostRead 0x0F .w8 Tests.halted).readData = 0 ∧ (hostRead 0x04 .w32 Tests.halted).readData = 0 := by decide

/-! ## Witnesses: a state and operands that meet the premises of each statement that has some -/

theorem witness_FormatsDecodeFieldByField :
    (bitsOfVoice .v3).toNat = (0x3FFFFFFFFFFFFFFF : Word64).toNat / 2 ^ 59 % 4 ∧
    ([0x3FFFFFFFFFFFFFFF, 0x500000000000007F, 0x6800000000000000, 0x98000000000001B8, 0xB000000000000000,
      0xC0000000000000FF, 0xE000000000000000] : List Word64).map (fun w => w.toNat / 2 ^ 61) =
      [1, 2, 3, 4, 5, 6, 7] ∧
    (bitsOfVoice .v0).toNat = (0x4000000000000080 : Word64).toNat / 2 ^ 59 % 4 := by decide

theorem witness_DecodeAfterEncodeIsIdentity :
    (Instr.setup .v3 255 0xFFFF 255 0xFFFF (-1024)).wellFormed = true ∧ (Instr.setBpm 0).wellFormed = true := by
  decide

theorem witness_EncodeAfterDecodeIsIdentity :
    decode 0x2000000000000400 = .command (.setup .v0 0 0 0 0 (-1024)) := by decide

theorem witness_IllegalWordsAreThoseTheOpcodeMapRejects :
    ¬ legalWord 0x4000000000000080 ∧ issues (Tests.commanded 0x4000000000000080) 0x4000000000000080 ∧
    (Tests.commanded 0x4000000000000080).faulted = false ∧ legalWord 0x400000000000007F := by
  refine ⟨by unfold legalWord; decide, rfl, rfl, by unfold legalWord; decide⟩

theorem witness_OpcodeRowsSelectOneCommand :
    (0xE000000000000000 : Word64) &&& 0xFFFFFFFFFFFFFFFF = 0xE000000000000000 ∧
    decode 0xE000000000000000 = .command .beatComplete := by decide

theorem witness_AssemblerTakesExactlyWhatFits :
    (assemble (.setup 3 255 65535 255 65535 1023)).isSome = true ∧
    (assemble (.setup 0 0 0 0 0 (-1024))).isSome = true ∧ assemble (.setup 0 0 0 0 0 (-1025)) = none ∧
    assemble (.setup 0 0 0 0 0 1024) = none ∧ assemble (.setup 0 256 0 0 0 0) = none ∧
    assemble (.setup 0 0 65536 0 0 0) = none ∧ assemble (.setup 0 0 0 256 0 0) = none ∧
    assemble (.setup 0 0 0 0 65536 0) = none ∧
    (assemble (.triggerMidi 3 127)).isSome = true ∧ assemble (.triggerMidi 3 128) = none ∧
    assemble (.triggerMidi 4 0) = none ∧ (assemble (.retrigger 3)).isSome = true ∧
    assemble (.retrigger 4) = none ∧ (assemble (.triggerHz 0 65535)).isSome = true ∧
    assemble (.triggerHz 0 65536) = none ∧ (assemble (.getAmp 3)).isSome = true ∧
    assemble (.getAmp 4) = none ∧ (assemble (.setBpm 0)).isSome = true ∧
    assemble (.setBpm 256) = none ∧ hostPitchInc ⟨440, 1⟩ = some 3604 ∧ hostLenInc ⟨1, 1⟩ = some 16 := by decide

theorem witness_StepRunsTheDecodedCommand :
    issues (Tests.commanded 0x4000000000000045) 0x4000000000000045 ∧
    (Tests.commanded 0x4000000000000045).faulted = false ∧
    decode 0x4000000000000045 = .command (.triggerMidi .v0 69) := ⟨rfl, rfl, by decide⟩

theorem witness_HostWindowFollowsTheMap :
    nextTurn (Tests.before [.hostWrite 0 .w32 1]) = .hostWrite 0 .w32 1 ∧
    nextTurn (Tests.commanded 1) = .hostWrite 0 .w64 1 ∧
    ∀ row ∈ ([(0x00, .w64), (0x08, .w16), (0x0A, .w16), (0x0C, .w32), (0x10, .w64)] : List (Nat × Width)),
      nextTurn (Tests.before [.hostRead row.1 row.2]) = .hostRead row.1 row.2 := by decide

/-- A read R38 gives no result for, and the two clauses at the last byte of their ranges. -/
theorem witness_NoReadChangesTheBlock :
    nextTurn (Tests.before [.hostRead 0x07 .w32]) = .hostRead 0x07 .w32 ∧
    nextTurn (Tests.before [.hostRead 0x07 .w8]) = .hostRead 0x07 .w8 ∧ 0x07 + widthBytes .w8 ≤ 8 ∧
    nextTurn (Tests.before [.hostRead 0x0F .w8]) = .hostRead 0x0F .w8 ∧ 0x0F + widthBytes .w8 ≤ 0x10 := by decide

/-- The premise of every result statement of a command, with the two clauses' operands of `TRIGGER_HZ` and
`SET_BPM` (`SetupWritesEveryTunable`, `TriggerMidiStartsTheNoteFromThePitchTable`,
`RetriggerClearsTheEnvelopeAccumulator`, `TriggerHzStartsTheNoteOrFaultsOnZero`,
`GetAmpAnswersTheCachedAmplitude`, `SetBpmLoadsTheCountdownOrFaultsOnZero`,
`BeatCompleteReadsAndClearsTheLatch`). -/
theorem witness_command_results :
    State.reset.faulted = false ∧ (1 : Word16) ≠ 0 ∧ (255 : Byte) ≠ 0 ∧
    State.reset.hzEntries.lookup 1 = none ∧
    ({ State.reset with hzEntries := [(440, 3604)] } : State).hzEntries.lookup 440 = some 3604 ∧
    ({ State.reset with hzEntries := [(440, 3604)] } : State).faulted = false := by decide

theorem witness_VoiceCommandsTouchOnlyTheirVoice :
    voiceOf (.triggerHz .v2 0) = some .v2 ∧ voiceOf (.getAmp .v1) = some .v1 ∧
    exec (.triggerHz .v2 0) State.reset = .next (commandBody (.triggerHz .v2 0) State.reset) ∧
    exec (.getAmp .v1) State.reset = .next (commandBody (.getAmp .v1) State.reset) := ⟨rfl, rfl, rfl, rfl⟩

theorem witness_CommandsKeepPhaseAndAmplitude :
    exec (.retrigger .v0) State.reset = .next (commandBody (.retrigger .v0) State.reset) := rfl

theorem witness_RespIsWrittenByCompletedCommandsOnly :
    exec (.setBpm 0) State.reset = .next (commandBody (.setBpm 0) State.reset) ∧
    (commandBody (.setBpm 0) State.reset).faulted = true ∧
    exec (.setBpm 1) State.reset = .next (commandBody (.setBpm 1) State.reset) ∧
    (commandBody (.setBpm 1) State.reset).faulted = false ∧ Tests.halted.faulted = true ∧
    step { Tests.commanded 0xC00000000000003C with resp := 5 } =
      .next { State.reset with bcStart := 2000, bcCount := 2000 } ∧
    State.reset.resp ≠ ({ Tests.commanded 0xC00000000000003C with resp := 5 } : State).resp :=
  ⟨rfl, by decide, rfl, by decide, by decide, rfl, by decide⟩

theorem witness_BeatTickCountsDownAndRollsOver :
    State.reset.bcStart = 0 ∧
    ({ State.reset with bcStart := 470, bcCount := 1 } : State).bcStart ≠ 0 ∧
    ({ State.reset with bcStart := 470, bcCount := 2 } : State).bcCount ≠ 1 := by decide

theorem witness_BeatLatchIsSetEveryBcStartTicks :
    (255 : Byte) ≠ 0 ∧ State.reset.faulted = false ∧
    exec (.setBpm 255) State.reset = .next (commandBody (.setBpm 255) State.reset) ∧
    (ticks (0 + 1) (commandBody (.setBpm 255) State.reset)).faulted = false := ⟨by decide, rfl, rfl, by decide⟩

theorem witness_BeatClockIsIndependentOfTheVoices :
    voiceOf (.retrigger .v3) = some .v3 ∧
    exec (.retrigger .v3) State.reset = .next (commandBody (.retrigger .v3) State.reset) ∧
    voiceOf .beatComplete = none ∧
    exec .beatComplete State.reset = .next (commandBody .beatComplete State.reset) ∧
    State.reset.faulted = false ∧ (tick State.reset).faulted = false := ⟨rfl, rfl, rfl, rfl, rfl, by decide⟩

theorem witness_RefCycleCountsAndRaisesTheTick :
    (refCycle { State.reset with tbRef := 249 }).tbRef = State.reset.tbNext ∧
    (refCycle State.reset).tbRef ≠ State.reset.tbNext := by decide

theorem witness_NoTickIsLostOrRunTwice :
    step { Tests.before [.refCycle] with tbRef := 249 } =
      .next { State.reset with tbRef := 250, tbNext := 500, tbPend := true } ∧
    nextTurn { Tests.before [.refCycle] with tbRef := 249 } ≠ .reset ∧
    (500 : Word16) ≠ ({ Tests.before [.refCycle] with tbRef := 249 } : State).tbNext ∧
    step { Tests.before [.tick] with tbPend := true } =
      .next (tick { State.reset with tbPend := true }) ∧
    (tick { State.reset with tbPend := true }).divMod ≠ State.reset.divMod ∧
    (tick { State.reset with tbPend := true }).tbPend = false ∧
    nextTurn { Tests.before [.refCycle] with tbRef := 249, tbPend := true } = .refCycle ∧
    tickIsDue { Tests.before [.refCycle] with tbRef := 249, tbPend := true } = true ∧
    nextTurn (Tests.before [.tick]) = .tick :=
  ⟨rfl, by decide, by decide, rfl, by decide, by decide, rfl, by decide, rfl⟩

/-- A state that runs a tick on a tick turn, one that runs it before a reference cycle, and a run that comes
to a tick. -/
theorem witness_TicksRecur :
    runsTick { Tests.before [.tick] with tbPend := true } ∧
    runsTick { Tests.before [.refCycle] with tbRef := 249, tbPend := true } ∧
    Host.Core.run Sys2Proof.core 1 { Tests.before [.refCycle, .tick] with tbRef := 249 } =
      .next { Tests.before [.tick] with tbRef := 250, tbNext := 500, tbPend := true } :=
  ⟨⟨rfl, .inl rfl⟩, ⟨rfl, .inr ⟨rfl, by decide⟩⟩, rfl⟩

theorem witness_OnlyTicksStepTheEngine :
    step { Tests.before [.tick] with tbPend := true } = .next (tick { State.reset with tbPend := true }) ∧
    runsTick { Tests.before [.tick] with tbPend := true } ∧
    step (Tests.before [.tick]) = .next State.reset ∧ ¬ runsTick (Tests.before [.tick]) ∧
    nextTurn (Tests.before [.tick]) ≠ .reset :=
  ⟨rfl, ⟨rfl, .inl rfl⟩, rfl, fun h => absurd h.1 (by decide), by decide⟩

theorem witness_TickRunsTheUnitsInOrder :
    State.reset.faulted = false ∧
    (false = true ↔ (State.reset.divEnv.toNat + 1) % 4 = 0) ∧
    (false = true ↔ (State.reset.divMod.toNat + 1) % 800 = 0) ∧
    (∀ v, voiceSample State.reset.tables false false (State.reset.voice v) = .sample Voice.reset 0) ∧
    (true = true ↔ (({ State.reset with divEnv := 3, divMod := 799 } : State).divEnv.toNat + 1) % 4 = 0) ∧
    (true = true ↔ (({ State.reset with divEnv := 3, divMod := 799 } : State).divMod.toNat + 1) % 800 = 0) ∧
    (∀ v, voiceSample State.reset.tables true true (State.reset.voice v) = .sample Voice.reset 0) := by
  refine ⟨rfl, by decide, by decide, ?_, by decide, by decide, ?_⟩ <;> intro v <;> cases v <;> rfl

theorem witness_TickReportsTheFirstFaultingVoice :
    Tests.unsetVoice2.faulted = false ∧
    (true = true ↔ (Tests.unsetVoice2.divEnv.toNat + 1) % 4 = 0) ∧
    (false = true ↔ (Tests.unsetVoice2.divMod.toNat + 1) % 800 = 0) ∧
    voiceSample Tests.unsetVoice2.tables true false (Tests.unsetVoice2.voice .v2) = .fault .unsetEnvTable ∧
    (∀ u, (bitsOfVoice u).toNat < (bitsOfVoice .v2).toNat →
      ∃ x n, voiceSample Tests.unsetVoice2.tables true false (Tests.unsetVoice2.voice u) = .sample x n) := by
  refine ⟨by decide, by decide, by decide, by decide, ?_⟩
  intro u hu
  cases u
  · exact ⟨Voice.reset, 0, rfl⟩
  · exact ⟨Voice.reset, 0, rfl⟩
  · exact absurd hu (by decide)
  · exact absurd hu (by decide)

/-- A state past reset that has the invariant: voice 0 sounding, a tempo set, the timebase mid-period. -/
def Tests.running : State :=
  { Tests.withVoice { Tests.sounding with amp := 254, wpi := 3604, base := 3604 } with
    divEnv := 3, divMod := 799, bcStart := 470, bcCount := 1, tbRef := 65535, tbNext := 0
    tables := Tests.pages, schedule := [.hostRead 0x10 .w64] }

theorem witness_block_invariant : BlockInv Tests.running where
  voices := by intro v; cases v <;> exact ⟨by unfold sentinelInv; decide, ⟨rfl, by decide⟩, rfl⟩
  beat := .inr (by decide)
  dividers := by unfold dividerInv; decide
  timebase := by unfold timebaseInv; decide
  fault := .inl (by decide)
  tables := by decide

/-- A state with a sounding voice whose tables are set, three voices that are over, and one tick of it. -/
theorem witness_TicksCompleteOnceTheTablesAreSet :
    Tests.running.faulted = false ∧
    ∀ v, tablesSetInv (Tests.running.voice v) ∧
      (sentinel (Tests.running.voice v).epa = true ∨ (Tests.running.voice v).wrefV = true) :=
  ⟨rfl, fun v => ⟨(witness_block_invariant.voices v).2.1, by cases v <;> decide⟩⟩

theorem witness_EnvelopeStepFollowsItsCases :
    voiceSample Tests.pages true true { Voice.reset with epa := 0x7FFF } = .fault .unsetEnvTable ∧
    ({ Voice.reset with wrefV := true } : Voice).wrefV = true ∧ 32768 ≤ (0x8000 : Word16).toNat ∧
    Tests.sounding.erefV = true ∧ Tests.sounding.wrefV = true ∧
    voiceSample Tests.pages false true Tests.sounding = .sample Tests.sounding 0 ∧
    voiceSample Tests.pages true false Voice.reset = .sample Voice.reset 0 ∧
    32768 ≤ Voice.reset.epa.toNat ∧
    voiceSample Tests.pages true false { Tests.sounding with epi := 0x8000 } =
      .sample { Tests.sounding with epi := 0x8000, epa := 0x8000 } 0 ∧
    voiceSample Tests.pages true false { Tests.sounding with wpa := 0x8000 } =
      .sample { Tests.sounding with wpa := 0x8000, epa := 0x0080, amp := 254 } (-127) := by decide

theorem witness_OscillatorAdvancesBeforeTheSample :
    voiceSample Tests.pages false false { Voice.reset with wpa := 0xFFFF, wpi := 1 } =
      .sample { Voice.reset with wpa := 0, wpi := 1 } 0 ∧
    voiceSample Tests.pages false true { Tests.sounding with wpa := 0x8000, wpi := 0x2000, amp := 254 } =
      .sample { Tests.sounding with wpa := 0xA000, wpi := 0x2000, amp := 254 } (-96) := by decide

theorem witness_ModulationHookDoesNothing :
    voiceSample Tests.pages true true Voice.reset = .sample Voice.reset 0 ∧
    voiceSample Tests.pages true true { Voice.reset with epa := 0 } = .fault .unsetEnvTable := by decide

/-- The extremes of the statement's range: -128 and 126. -/
theorem witness_SampleFitsASignedByte :
    voiceSample [(0, 0x80)] false false { Voice.reset with wrefV := true, amp := 255 } =
      .sample { Voice.reset with wrefV := true, amp := 255 } (-128) ∧
    voiceSample [(0, 0x7F)] false false { Voice.reset with wrefV := true, amp := 255 } =
      .sample { Voice.reset with wrefV := true, amp := 255 } 126 := by decide

theorem witness_PhaseLawOverTicks :
    (ticks 3 (Tests.withVoice { Voice.reset with wpa := 0xFFFF, wpi := 0x8001 })).faulted = false := by decide

theorem witness_EnvelopeTrajectoryOverTicks :
    (Tests.sounding.epa = 0 ∧ 0 < (0x8000 : Word16).toNat ∧ (0x8000 : Word16).toNat ≤ 32768) ∧
    (ticks (4 * 1 - State.reset.divEnv.toNat)
      { Tests.withVoice { Tests.sounding with epi := 0x8000 } with tables := Tests.pages }).faulted = false ∧
    (1 - 1) * (0x8000 : Word16).toNat < 32768 ∧ 32768 ≤ 1 * (0x8000 : Word16).toNat ∧
    (ticks (4 * 1 - (3 : BitVec 2).toNat) { Tests.withVoice { Tests.sounding with wpa := 0x8000 } with
      tables := Tests.pages, divEnv := 3 }).faulted = false ∧
    1 * (0x0080 : Word16).toNat < 32768 := by decide

theorem witness_EndedNoteStaysSilentUntilATrigger :
    step (Tests.before [.refCycle]) = .next (refCycle State.reset) ∧
    sentinel (State.reset.voice .v0).epa = true ∧ (State.reset.voice .v0).amp = 0 ∧
    sentinel Voice.reset.epa = true := ⟨rfl, by decide, by decide, by decide⟩

theorem witness_AmplitudeWaitsForTheEnvelopeTick :
    3 + State.reset.divEnv.toNat < 4 ∧ (ticks 3 State.reset).faulted = false ∧
    (({ Tests.withVoice { Tests.sounding with wpa := 0x8000 } with tables := Tests.pages, divEnv := 3 } :
      State).voice .v0).epa = 0 ∧
    (ticks 1 { Tests.withVoice { Tests.sounding with wpa := 0x8000 } with
      tables := Tests.pages, divEnv := 3 }).faulted = false := by decide

theorem witness_MixerAveragesAndAddsTheBias :
    (-128 ≤ (-128 : Int) ∧ (-128 : Int) ≤ 126) ∧ (-128 ≤ (126 : Int) ∧ (126 : Int) ≤ 126) ∧
    -508 ≤ (-128 : Int) + -128 + -128 + -124 ∧ (-128 : Int) + -128 + -128 + -125 < -508 := by decide

theorem witness_EqualSamplesGiveTheirValuePlusTheBias :
    -127 ≤ (-127 : Int) ∧ (126 : Int) ≤ 126 ∧ mix (-128) (-128) (-128) (-128) = 255 := by decide

theorem witness_FaultsArePrecise :
    step (Tests.commanded 0) = .next Tests.halted ∧ (Tests.commanded 0).faulted = false ∧
    Tests.halted.faulted = true ∧
    step { Tests.unsetVoice2 with schedule := [.tick] } = .next (tick Tests.unsetVoice2) ∧
    (tick Tests.unsetVoice2).faulted = true := ⟨rfl, rfl, by decide, rfl, by decide⟩

theorem witness_FaultCmdHoldsTheFaultingWord :
    step (Tests.commanded 0x9800000000000000) =
      .next { State.reset with status := 0x003B, faultCmd := 0x9800000000000000 } ∧
    issues (Tests.commanded 0x9800000000000000) 0x9800000000000000 ∧
    ({ State.reset with status := 0x003B, faultCmd := 0x9800000000000000 } : State).faulted = true ∧
    step { Tests.unsetVoice2 with schedule := [.tick] } = .next (tick Tests.unsetVoice2) ∧
    (tick Tests.unsetVoice2).faulted = true ∧
    step { Tests.halted with schedule := [.tick] } = .next Tests.halted := ⟨rfl, rfl, by decide, rfl, by decide, rfl⟩

theorem witness_HaltedBlockOnlyCountsAndAnswersReads :
    Tests.halted.faulted = true ∧
    (refCycle { Tests.halted with tbRef := 249 }).tbRef = Tests.halted.tbNext ∧
    step { Tests.halted with schedule := [.refCycle] } = .next { Tests.halted with tbRef := 1 } ∧
    step { Tests.halted with schedule := [.reset] } = .next State.reset := ⟨by decide, by decide, rfl, rfl⟩

/-- The premises of `StepKeepsTheInvariant` and `UnsetWaveTableIsNeverLatched`. -/
theorem witness_StepKeepsTheInvariant :
    BlockInv Tests.running ∧ step Tests.running = .next { Tests.running with schedule := [] } :=
  ⟨witness_block_invariant, rfl⟩

theorem witness_StepKeepsTheSentinelInvariant :
    (∀ v, sentinelInv (Tests.running.voice v)) ∧
    step Tests.running = .next { Tests.running with schedule := [] } :=
  ⟨fun v => (witness_block_invariant.voices v).1, rfl⟩

theorem witness_RunsNeverStopAndKeepTheInvariant :
    BlockInv Tests.running ∧
    Host.Core.run Sys2Proof.core 1 Tests.running = .next { Tests.running with schedule := [] } :=
  ⟨witness_block_invariant, rfl⟩

theorem witness_ResetGivesEveryRegisterItsValue :
    nextTurn { Tests.halted with schedule := [.reset] } = .reset ∧ Tests.halted.faulted = true ∧
    step { Tests.halted with schedule := [.reset] } = .next State.reset ∧
    State.reset.faulted = false := ⟨rfl, by decide, rfl, rfl⟩

theorem witness_NoStepWritesALaunchInput :
    step Tests.running = .next { Tests.running with schedule := [] } := rfl

theorem witness_ModulationFieldsCannotBeObserved :
    blot (Tests.before [.tick]) =
      blot { Tests.withVoice { Voice.reset with base := 7, mdep := 5 } with schedule := [.tick] } ∧
    Tests.before [.tick] ≠ { Tests.withVoice { Voice.reset with base := 7, mdep := 5 } with schedule := [.tick] } ∧
    step (Tests.before [.tick]) = .next State.reset := ⟨rfl, by decide, rfl⟩

theorem witness_TickOfAVoiceIgnoresTheOthers :
    State.reset.tables = (Tests.withVoice { Voice.reset with wpi := 9 }).tables ∧
    State.reset.divEnv = (Tests.withVoice { Voice.reset with wpi := 9 }).divEnv ∧
    State.reset.voice .v1 = (Tests.withVoice { Voice.reset with wpi := 9 }).voice .v1 ∧
    (tick State.reset).faulted = false ∧
    (tick (Tests.withVoice { Voice.reset with wpi := 9 })).faulted = false := by decide
end

section
/-! PROOFS. What each operation of a step writes, and the outcomes of a step by the operation that ran. -/

namespace Sys2Proof.Machine

/-! ## The two commands that can fault, case by case -/

theorem commandBody_triggerHz_zero (v : VoiceId) (s : State) :
    commandBody (.triggerHz v 0) s =
      raiseFault .freqZero v (.command (encode (.triggerHz v 0))) s := rfl

theorem commandBody_triggerHz_nonzero (v : VoiceId) {freq : Word16} (h : freq ≠ 0) (s : State) :
    commandBody (.triggerHz v freq) s = respond 0 (startNote v (hzInc s freq) s) := if_neg h

theorem commandBody_setBpm_zero (s : State) :
    commandBody (.setBpm 0) s = raiseFault .bpmZero .v0 (.command (encode (.setBpm 0))) s := rfl

theorem commandBody_setBpm_nonzero {bpm : Byte} (h : bpm ≠ 0) (s : State) :
    commandBody (.setBpm bpm) s = respond 0
      { s with bcStart := beatStart bpm, bcCount := beatStart bpm, bcLatch := false } := if_neg h

/-! ## Frames -/

@[simp] theorem popTurn_resp (s : State) : (popTurn s).resp = s.resp := by rw [popTurn_frame]
@[simp] theorem popTurn_status (s : State) : (popTurn s).status = s.status := by rw [popTurn_frame]
@[simp] theorem popTurn_faultCmd (s : State) : (popTurn s).faultCmd = s.faultCmd := by rw [popTurn_frame]
@[simp] theorem popTurn_faulted (s : State) : (popTurn s).faulted = s.faulted := by
  rw [popTurn_frame]; rfl

/-- A tick leaves `BC_START`, `RESP`, the threshold counters, the launch inputs and the model's own fields. -/
theorem tick_frame (s : State) :
    tick s = { s with
      tbPend := false
      voices := (tick s).voices, divEnv := (tick s).divEnv, divMod := (tick s).divMod
      out := (tick s).out, bcCount := (tick s).bcCount, bcLatch := (tick s).bcLatch
      status := (tick s).status, faultCmd := (tick s).faultCmd } := by
  rcases tick_cases s with ⟨_, h⟩ | ⟨_, _, _, _, h⟩ | ⟨_, _, _, _, h⟩ <;> rw [h]
  · rfl
  · rw [beatTick_frame]
    rfl

/-- A reference cycle writes the timebase and nothing else. -/
theorem refCycle_frame (s : State) :
    refCycle s = { s with
      tbRef := (refCycle s).tbRef, tbNext := (refCycle s).tbNext, tbPend := (refCycle s).tbPend } := by
  unfold refCycle
  split <;> rfl

/-- A command writes the voices, the beat clock, `RESP` and the fault record at most. -/
theorem commandBody_frame (i : Instr) (s : State) :
    commandBody i s = { s with
      voices := (commandBody i s).voices, bcStart := (commandBody i s).bcStart
      bcCount := (commandBody i s).bcCount, bcLatch := (commandBody i s).bcLatch
      resp := (commandBody i s).resp, status := (commandBody i s).status
      faultCmd := (commandBody i s).faultCmd } := by
  cases i with
  | triggerHz v freq => simp only [commandBody]; split <;> rfl
  | setBpm bpm => simp only [commandBody]; split <;> rfl
  | setup v wref winc eref einc mdep => rfl
  | triggerMidi v note => rfl
  | retrigger v => rfl
  | getAmp v => rfl
  | beatComplete => rfl

/-! ## The outcomes of a step -/

/-- What a step ran: nothing, a reference cycle, the tick (whose waiting reference cycle stands in the
schedule, R116), an illegal or a legal command word on a running block, a host read, or the reset. -/
theorem step_outcomes {s t : State} (h : step s = .next t) :
    t = popTurn s ∨
    (nextTurn s = .refCycle ∧ t = refCycle (popTurn s)) ∨
    ((nextTurn s = .tick ∨ nextTurn s = .refCycle) ∧
      ∃ turns, t = { tick (popTurn s) with schedule := turns }) ∨
    (∃ w, issues s w ∧ s.faulted = false ∧
      t = raiseFault .illegalCommand .v0 (.command w) (popTurn s)) ∨
    (∃ w i, issues s w ∧ s.faulted = false ∧ decode w = .command i ∧ t = commandBody i (popTurn s)) ∨
    (∃ off width, t = hostRead off width (popTurn s)) ∨
    (nextTurn s = .reset ∧ t = resetAction (popTurn s)) := by
  rcases step_cases h with ⟨hn, rfl⟩ | ⟨hn, rfl⟩ | ⟨w, hw, hnext⟩ | ⟨_, _, _, _, _, rfl⟩ |
    ⟨off, width, _, rfl⟩ | ⟨hn, rfl⟩
  · unfold refCycleTurn
    split
    · exact .inr (.inr (.inl ⟨.inr hn, _, rfl⟩))
    · exact .inr (.inl ⟨hn, rfl⟩)
  · unfold tickTurn
    split
    · exact .inr (.inr (.inl ⟨.inl hn, _, rfl⟩))
    · exact .inl rfl
  · rcases issueCommand_next hnext with ⟨_, rfl⟩ | ⟨hf, _, rfl⟩ | ⟨hf, i, hd, rfl⟩
    · exact .inl rfl
    · exact .inr (.inr (.inr (.inl ⟨w, hw, popTurn_faulted s ▸ hf, rfl⟩)))
    · exact .inr (.inr (.inr (.inr (.inl ⟨w, i, hw, popTurn_faulted s ▸ hf, hd, rfl⟩))))
  · exact .inl rfl
  · exact .inr (.inr (.inr (.inr (.inr (.inl ⟨off, width, rfl⟩)))))
  · exact .inr (.inr (.inr (.inr (.inr (.inr ⟨hn, rfl⟩)))))

/-! ## The step as a function of the state (R120) -/

/-- The state a command word leaves. -/
def portBody (w : Word64) (s : State) : State :=
  if s.faulted then s
  else
    match decode w with
    | .illegal _ => raiseFault .illegalCommand .v0 (.command w) s
    | .command i => commandBody i s

theorem issueCommand_eq (w : Word64) (s : State) : issueCommand w s = .next (portBody w s) := by
  unfold issueCommand portBody
  cases hf : s.faulted
  · cases decode w with
    | illegal why => rfl
    | command i => exact exec_running i s hf
  · rfl

/-- The state a turn leaves. -/
def turnBody : Turn → State → State
  | .refCycle => refCycleTurn
  | .tick => tickTurn
  | .hostWrite off width data => if isCommandWrite off width then portBody data else id
  | .hostRead off width => hostRead off width
  | .reset => resetAction

theorem runTurn_eq (turn : Turn) (s : State) : runTurn turn s = .next (turnBody turn s) := by
  cases turn with
  | hostWrite off width data =>
    simp only [runTurn, hostWrite, turnBody]
    split
    · exact issueCommand_eq data s
    · rfl
  | refCycle => rfl
  | tick => rfl
  | hostRead off width => rfl
  | reset => rfl

/-- Each step answers a next state: what its turn makes of the state the turn was taken from. -/
theorem step_eq (s : State) : step s = .next (turnBody (nextTurn s) (popTurn s)) :=
  runTurn_eq _ _

end Sys2Proof.Machine
end

section
/-! PROOFS. What each operation of a step does to a voice, and the invariants of voices that follow
(10_state.md section 2). -/

namespace Sys2Proof.Machine

/-! ## What a command, a tick and a step make of one voice -/

/-- A voice written to a state is read back in its own place; every other voice is as it was. -/
theorem setVoice_voice_cases (v u : VoiceId) (x : Voice) (s : State) :
    (setVoice v x s).voice u = s.voice u ∨ (u = v ∧ (setVoice v x s).voice u = x) := by
  by_cases hu : u = v
  · subst hu
    exact .inr ⟨rfl, voice_setVoice_same u x s⟩
  · exact .inl (voice_setVoice_other v u x s hu)

/-- A command leaves a voice as it was, sets it up, starts its note at a new pitch, or restarts it. -/
theorem commandBody_voice_cases (i : Instr) (s : State) (u : VoiceId) :
    (commandBody i s).voice u = s.voice u ∨
    (∃ wref winc eref einc mdep, i = .setup u wref winc eref einc mdep ∧
      (commandBody i s).voice u = { s.voice u with
        wref := wref, wrefV := true, wpi := winc, base := winc, eref := eref, erefV := true
        epi := einc, mdep := BitVec.ofInt 11 mdep }) ∨
    (triggers u i ∧ ∃ inc,
      (commandBody i s).voice u = { s.voice u with wpi := inc, base := inc, epa := 0 }) ∨
    (triggers u i ∧ (commandBody i s).voice u = { s.voice u with epa := 0 }) := by
  cases i with
  | setup v wref winc eref einc mdep =>
    exact (setVoice_voice_cases v u _ s).imp_right fun ⟨hu, e⟩ =>
      .inl ⟨wref, winc, eref, einc, mdep, by rw [hu], hu ▸ e⟩
  | triggerMidi v note =>
    exact (setVoice_voice_cases v u _ s).imp_right fun ⟨hu, e⟩ =>
      .inr (.inl ⟨.inl ⟨note, by rw [hu]⟩, pitchInc s note, hu ▸ e⟩)
  | retrigger v =>
    exact (setVoice_voice_cases v u _ s).imp_right fun ⟨hu, e⟩ =>
      .inr (.inr ⟨.inr (.inl (by rw [hu])), hu ▸ e⟩)
  | triggerHz v freq =>
    by_cases hf : freq = 0
    · exact .inl (by rw [hf, commandBody_triggerHz_zero, voice_raiseFault])
    · rw [commandBody_triggerHz_nonzero v hf]
      exact (setVoice_voice_cases v u _ s).imp_right fun ⟨hu, e⟩ =>
        .inr (.inl ⟨.inr (.inr ⟨freq, by rw [hu]⟩), hzInc s freq, hu ▸ e⟩)
  | getAmp v => exact .inl rfl
  | setBpm bpm =>
    by_cases hb : bpm = 0
    · exact .inl (by rw [hb, commandBody_setBpm_zero, voice_raiseFault])
    · exact .inl (by rw [commandBody_setBpm_nonzero hb]; rfl)
  | beatComplete => exact .inl rfl

/-- A tick leaves a voice as it was, or makes of it what its sample step gives. -/
theorem tick_voice_cases (s : State) (v : VoiceId) :
    (tick s).voice v = s.voice v ∨
    ∃ n, voiceSample s.tables (updEnvOf s) (applyModOf s) (s.voice v) =
      .sample ((tick s).voice v) n := by
  rcases tick_cases s with ⟨_, ht⟩ | ⟨_, _, _, _, ht⟩ | ⟨_, vs, out, hr, ht⟩
  · rw [ht]; exact .inl rfl
  · rw [ht]; exact .inl rfl
  · obtain ⟨n, hn, _⟩ := runEngine_output hr
    rw [ht, beatTick_frame]
    exact .inr ⟨n v, hn v⟩

@[simp] theorem refCycle_voice (s : State) (v : VoiceId) : (refCycle s).voice v = s.voice v := by
  rw [refCycle_frame]; rfl

@[simp] theorem popTurn_voice (s : State) (v : VoiceId) : (popTurn s).voice v = s.voice v := by
  rw [popTurn_frame]; rfl

@[simp] theorem hostRead_voice (off : Nat) (width : Width) (s : State) (v : VoiceId) :
    (hostRead off width s).voice v = s.voice v := by
  rw [hostRead_frame]; rfl

@[simp] theorem resetAction_voice (s : State) (v : VoiceId) :
    (resetAction s).voice v = Voice.reset := by cases v <;> rfl

section VoiceInvariant

variable {P : Voice → Prop}
  (hreset : P Voice.reset)
  (hcommand : ∀ i s v, P (s.voice v) → P ((commandBody i s).voice v))
  (hsample : ∀ t updEnv applyMod x y n, voiceSample t updEnv applyMod x = .sample y n → P x → P y)

include hsample in
/-- A property of voices that the sample step keeps is kept by the tick. -/
theorem tick_keeps_voice (s : State) (v : VoiceId) (h : P (s.voice v)) : P ((tick s).voice v) := by
  rcases tick_voice_cases s v with ht | ⟨n, hn⟩
  · rwa [ht]
  · exact hsample _ _ _ _ _ n hn h

include hreset hcommand hsample in
/-- A property of voices that a reset voice has and that every command and the sample step keep is kept,
in each voice, by every step. -/
theorem step_keeps_voice {s t : State} (hstep : step s = .next t) (v : VoiceId)
    (h : P (s.voice v)) : P (t.voice v) := by
  have hpop : P ((popTurn s).voice v) := by rwa [popTurn_voice]
  rcases step_outcomes hstep with rfl | ⟨_, rfl⟩ | ⟨_, _, rfl⟩ | ⟨_, _, _, rfl⟩ | ⟨_, i, _, _, _, rfl⟩ |
    ⟨_, _, rfl⟩ | ⟨_, rfl⟩
  · exact hpop
  · rwa [refCycle_voice]
  · exact tick_keeps_voice hsample (popTurn s) v hpop
  · exact hpop
  · exact hcommand i _ v hpop
  · rwa [hostRead_voice]
  · rwa [resetAction_voice]

end VoiceInvariant

/-! ## The sentinel invariant (R32) -/

theorem reset_sentinelInv : sentinelInv Voice.reset := fun _ => rfl

/-- The envelope step forces the amplitude to 0 wherever it leaves the sentinel set. -/
theorem envelopeStep_sentinelInv {t : List Host.Cell} {x y : Voice}
    (h : envelopeStep t x = some y) : sentinelInv y := by
  rcases envelopeStep_some h with ⟨_, rfl⟩ | ⟨_, _, rfl⟩
  · exact fun _ => rfl
  · exact fun hs => if_pos hs

theorem voiceSample_sentinelInv (t : List Host.Cell) (updEnv applyMod : Bool) (x y : Voice) (n : Int)
    (h : voiceSample t updEnv applyMod x = .sample y n) (hx : sentinelInv x) : sentinelInv y := by
  obtain ⟨x1, ⟨_, he⟩ | ⟨_, rfl⟩, rfl, _⟩ := voiceSample_sample h
  · have h1 : sentinelInv x1 := envelopeStep_sentinelInv he
    exact h1
  · exact hx

/-- A command keeps both `EPA` and `AMP`, or clears `EPA` and with it the sentinel. -/
theorem commandBody_sentinelInv (i : Instr) (s : State) (v : VoiceId)
    (h : sentinelInv (s.voice v)) : sentinelInv ((commandBody i s).voice v) := by
  have hclear : sentinel 0 ≠ true := by decide
  rcases commandBody_voice_cases i s v with e | ⟨_, _, _, _, _, _, e⟩ | ⟨_, _, e⟩ | ⟨_, e⟩ <;> rw [e]
  · exact h
  · exact h
  · exact fun hs => absurd hs hclear
  · exact fun hs => absurd hs hclear

/-- Settles O48: a reset voice has the invariant, and every command and the sample step keep it. -/
theorem stepKeepsTheSentinelInvariant : Obligations.StepKeepsTheSentinelInvariant := by
  unfold Obligations.StepKeepsTheSentinelInvariant
  intro s t h hstep v
  exact step_keeps_voice reset_sentinelInv commandBody_sentinelInv voiceSample_sentinelInv hstep v (h v)

end Sys2Proof.Machine
end

section
/-! PROOFS. The fields `BASE` and `MDEP`, which nothing reads (10_state.md rules R30, R31). -/

namespace Sys2Proof.Machine

/-! ## Blotting out and reading -/

/-- The voice register file with `BASE` and `MDEP` of every voice blotted out. -/
def blotVoices (vs : Voices) : Voices :=
  ⟨blotVoice vs.v0, blotVoice vs.v1, blotVoice vs.v2, blotVoice vs.v3⟩

theorem blot_eq (s : State) : blot s = { s with voices := blotVoices s.voices } := rfl

@[simp] theorem blot_blot (s : State) : blot (blot s) = blot s := rfl

@[simp] theorem voice_blot (s : State) (v : VoiceId) : (blot s).voice v = blotVoice (s.voice v) := by
  cases v <;> rfl

@[simp] theorem faulted_blot (s : State) : (blot s).faulted = s.faulted := rfl

theorem blot_setVoice (v : VoiceId) (x : Voice) (s : State) :
    blot (setVoice v x s) = setVoice v (blotVoice x) (blot s) := by cases v <;> rfl

@[simp] theorem blot_respond (r : Word16) (s : State) : blot (respond r s) = respond r (blot s) := rfl

/-! ## A tick does not read the blotted fields -/

/-- What a voice gives, with `BASE` and `MDEP` of its new fields blotted out. -/
def VoiceResult.blot : VoiceResult → VoiceResult
  | .sample x value => .sample (blotVoice x) value
  | .fault cause => .fault cause

/-- What the engine gives, with `BASE` and `MDEP` of the new voices blotted out. -/
def EngineResult.blot : EngineResult → EngineResult
  | .output vs out => .output (blotVoices vs) out
  | .fault cause v => .fault cause v

theorem envelopeStep_blotVoice (t : List Host.Cell) (x : Voice) :
    envelopeStep t (blotVoice x) = (envelopeStep t x).map blotVoice := by
  simp only [envelopeStep, apply_ite (Option.map blotVoice)]
  rfl

theorem sampleStep_blotVoice (t : List Host.Cell) (x : Voice) :
    sampleStep t (blotVoice x) = sampleStep t x := rfl

theorem oscillatorStep_blotVoice (x : Voice) :
    oscillatorStep (blotVoice x) = blotVoice (oscillatorStep x) := rfl

theorem voiceSample_blotVoice (t : List Host.Cell) (updEnv applyMod : Bool) (x : Voice) :
    voiceSample t updEnv applyMod (blotVoice x) = (voiceSample t updEnv applyMod x).blot := by
  have henv : (if updEnv then envelopeStep t (blotVoice x) else some (blotVoice x)) =
      (if updEnv then envelopeStep t x else some x).map blotVoice := by
    cases updEnv
    · rfl
    · exact envelopeStep_blotVoice t x
  unfold voiceSample
  rw [henv]
  cases (if updEnv then envelopeStep t x else some x) with
  | none => rfl
  | some x1 =>
    simp only [Option.map_some, modulationHook, ite_self, oscillatorStep_blotVoice,
      sampleStep_blotVoice]
    cases sampleStep t (oscillatorStep x1) <;> rfl

theorem runEngine_blotVoices (t : List Host.Cell) (updEnv applyMod : Bool) (vs : Voices) :
    runEngine t updEnv applyMod (blotVoices vs) = (runEngine t updEnv applyMod vs).blot := by
  simp only [runEngine, blotVoices, voiceSample_blotVoice]
  cases voiceSample t updEnv applyMod vs.v0 with
  | fault c => rfl
  | sample x0 s0 =>
    cases voiceSample t updEnv applyMod vs.v1 with
    | fault c => rfl
    | sample x1 s1 =>
      cases voiceSample t updEnv applyMod vs.v2 with
      | fault c => rfl
      | sample x2 s2 => cases voiceSample t updEnv applyMod vs.v3 <;> rfl

theorem beatTick_blot (s : State) : beatTick (blot s) = blot (beatTick s) := by
  simp only [beatTick, apply_ite blot]
  rfl

/-- The state a tick leaves, from what the engine gives on it. -/
def engineBody : EngineResult → State → State
  | .output vs out, s => beatTick { stepDividers s with voices := vs, out := out }
  | .fault cause v, s => raiseFault cause v .tick s

theorem tickBody_eq (s : State) :
    tickBody s = engineBody (runEngine s.tables (updEnvOf s) (applyModOf s) s.voices) s := by
  unfold updEnvOf applyModOf
  simp only [tickBody, stepDividers_tables, stepDividers_voices]
  cases runEngine s.tables ((stepDividers s).divEnv == 0) ((stepDividers s).divMod == 0) s.voices <;>
    rfl

theorem engineBody_blot (r : EngineResult) (s : State) :
    engineBody r.blot (blot s) = blot (engineBody r s) := by
  cases r with
  | output vs out => exact beatTick_blot { stepDividers s with voices := vs, out := out }
  | fault cause v => rfl

theorem tickBody_blot (s : State) : tickBody (blot s) = blot (tickBody s) := by
  rw [tickBody_eq, tickBody_eq, ← engineBody_blot, ← runEngine_blotVoices, blot_eq]
  rfl

theorem tick_blot (s : State) : tick (blot s) = blot (tick s) := by
  unfold tick
  simp only [apply_ite blot, ← tickBody_blot]
  rfl

/-! ## No turn tells two states apart that differ only in the blotted fields -/

theorem commandBody_blot (i : Instr) (s : State) :
    blot (commandBody i (blot s)) = blot (commandBody i s) := by
  cases i with
  | setup v wref winc eref einc mdep =>
    simp only [commandBody, blot_respond, blot_setVoice, voice_blot, blot_blot]
    rfl
  | triggerMidi v note =>
    simp only [commandBody, startNote, blot_respond, blot_setVoice, voice_blot, blot_blot]
    rfl
  | retrigger v =>
    simp only [commandBody, blot_respond, blot_setVoice, voice_blot, blot_blot]
    rfl
  | triggerHz v freq =>
    by_cases hf : freq = 0
    · rw [hf]; rfl
    · simp only [commandBody_triggerHz_nonzero v hf, startNote, blot_respond, blot_setVoice,
        voice_blot, blot_blot]
      rfl
  | getAmp v =>
    simp only [commandBody, blot_respond, voice_blot, blot_blot]
    rfl
  | setBpm bpm =>
    by_cases hb : bpm = 0
    · rw [hb]; rfl
    · rw [commandBody_setBpm_nonzero hb, commandBody_setBpm_nonzero hb]; rfl
  | beatComplete => rfl

theorem portBody_blot (w : Word64) (s : State) :
    blot (portBody w (blot s)) = blot (portBody w s) := by
  unfold portBody
  rw [faulted_blot]
  split
  · rfl
  · cases decode w with
    | illegal why => rfl
    | command i => exact commandBody_blot i s

theorem refCycle_blot (s : State) : refCycle (blot s) = blot (refCycle s) := by
  simp only [refCycle, apply_ite blot]
  rfl

theorem nextTurn_blot (s : State) : nextTurn (blot s) = nextTurn s := rfl

theorem popTurn_blot (s : State) : popTurn (blot s) = blot (popTurn s) := by
  simp only [popTurn, blot]
  split <;> rfl

theorem hostRead_blot (off : Nat) (width : Width) (s : State) :
    hostRead off width (blot s) = blot (hostRead off width s) := by
  have hread : windowRead off width (blot s) = windowRead off width s := rfl
  unfold hostRead
  rw [hread]
  cases windowRead off width s <;> rfl

theorem turnBody_blot (turn : Turn) (s : State) :
    blot (turnBody turn (blot s)) = blot (turnBody turn s) := by
  cases turn with
  | refCycle =>
    have hdue : tickIsDue (blot s) = tickIsDue s := rfl
    simp only [turnBody, refCycleTurn, hdue, tick_blot, refCycle_blot]
    split <;> rfl
  | tick =>
    have hpend : (blot s).tbPend = s.tbPend := rfl
    simp only [turnBody, tickTurn, hpend, tick_blot]
    split <;> rfl
  | hostWrite off width data =>
    simp only [turnBody]
    split
    · exact portBody_blot data s
    · rfl
  | hostRead off width => rw [turnBody, hostRead_blot, blot_blot]
  | reset => rfl

/-- Blotting out `BASE` and `MDEP` before the step changes nothing else after it. -/
theorem blot_turnBody_popTurn (s : State) :
    blot (turnBody (nextTurn (blot s)) (popTurn (blot s))) = blot (turnBody (nextTurn s) (popTurn s)) := by
  rw [nextTurn_blot, popTurn_blot, turnBody_blot]

/-- Settles O51: what a step leaves, blotted, depends on the blotted state alone. -/
theorem modulationFieldsCannotBeObserved : Obligations.ModulationFieldsCannotBeObserved := by
  unfold Obligations.ModulationFieldsCannotBeObserved
  intro s s' t hblot hstep
  rw [step_eq] at hstep
  cases hstep
  exact ⟨_, step_eq s', by rw [← blot_turnBody_popTurn s, hblot, blot_turnBody_popTurn s']⟩

end Sys2Proof.Machine
end

section
/-! PROOFS. The registers of 10_state.md: the launch inputs (R46), `RESP` (R40), `FAULT_CMD` (R42), the
host window (R38), and the independence of the voices (R22). -/

namespace Sys2Proof.Machine

/-! ## The launch inputs (R46) -/

/-- The inputs fixed for a run: `TABLES`, `PITCH_TABLE` and the values of `HZ_TO_INC`. -/
def launchInputs (s : State) : List Host.Cell × Vector Word16 128 × List (Word16 × Word16) :=
  (s.tables, s.pitchTable, s.hzEntries)

@[simp] theorem launchInputs_popTurn (s : State) : launchInputs (popTurn s) = launchInputs s := by
  rw [popTurn_frame]; rfl

@[simp] theorem launchInputs_tick (s : State) : launchInputs (tick s) = launchInputs s := by
  rw [tick_frame]; rfl

@[simp] theorem launchInputs_refCycle (s : State) : launchInputs (refCycle s) = launchInputs s := by
  rw [refCycle_frame]; rfl

@[simp] theorem launchInputs_commandBody (i : Instr) (s : State) :
    launchInputs (commandBody i s) = launchInputs s := by
  rw [commandBody_frame]; rfl

@[simp] theorem launchInputs_hostRead (off : Nat) (width : Width) (s : State) :
    launchInputs (hostRead off width s) = launchInputs s := by
  rw [hostRead_frame]; rfl

theorem step_launchInputs {s t : State} (h : step s = .next t) : launchInputs t = launchInputs s := by
  rw [← launchInputs_popTurn s]
  rcases step_outcomes h with rfl | ⟨_, rfl⟩ | ⟨_, _, rfl⟩ | ⟨_, _, _, rfl⟩ | ⟨_, i, _, _, _, rfl⟩ |
    ⟨_, _, rfl⟩ | ⟨_, rfl⟩
  · rfl
  · exact launchInputs_refCycle _
  · exact launchInputs_tick _
  · rfl
  · exact launchInputs_commandBody i _
  · exact launchInputs_hostRead _ _ _
  · rfl

/-- Settles O50, by the frame of each kind of step. -/
theorem noStepWritesALaunchInput : Obligations.NoStepWritesALaunchInput := by
  unfold Obligations.NoStepWritesALaunchInput
  intro s t h
  have hinputs := step_launchInputs h
  simp only [launchInputs, Prod.mk.injEq] at hinputs
  obtain ⟨htables, hpitch, hhz⟩ := hinputs
  exact ⟨htables, fun a => by rw [htables], hpitch, hhz⟩

/-! ## What a command answers, or latches -/

/-- The value a completed command writes to `RESP` (R40). -/
def commandAnswer : Instr → State → Word16
  | .getAmp v, s => (s.voice v).amp.setWidth 16
  | .beatComplete, s => flagWord s.bcLatch
  | _, _ => 0

@[simp] theorem flagWord_toNat (b : Bool) : (flagWord b).toNat = b.toNat := by cases b <;> rfl

/-- A command latches a fault with its own word, or answers `RESP` and leaves the fault record. -/
theorem commandBody_cases (i : Instr) (s : State) :
    (∃ c v, commandBody i s = raiseFault c v (.command (encode i)) s) ∨
    ((commandBody i s).resp = commandAnswer i s ∧ (commandBody i s).status = s.status ∧
      (commandBody i s).faultCmd = s.faultCmd) := by
  cases i with
  | triggerHz v freq =>
    by_cases hf : freq = 0
    · exact .inl ⟨.freqZero, v, by rw [hf, commandBody_triggerHz_zero]⟩
    · rw [commandBody_triggerHz_nonzero v hf]
      exact .inr ⟨rfl, rfl, rfl⟩
  | setBpm bpm =>
    by_cases hb : bpm = 0
    · exact .inl ⟨.bpmZero, .v0, by rw [hb, commandBody_setBpm_zero]⟩
    · rw [commandBody_setBpm_nonzero hb]
      exact .inr ⟨rfl, rfl, rfl⟩
  | setup v wref winc eref einc mdep => exact .inr ⟨rfl, rfl, rfl⟩
  | triggerMidi v note => exact .inr ⟨rfl, rfl, rfl⟩
  | retrigger v => exact .inr ⟨rfl, rfl, rfl⟩
  | getAmp v => exact .inr ⟨rfl, rfl, rfl⟩
  | beatComplete => exact .inr ⟨rfl, rfl, rfl⟩

theorem faulted_eq_of_status {s t : State} (h : t.status = s.status) : t.faulted = s.faulted :=
  congrArg statusFaulted h

/-- A command on a running block leaves `RESP` if it faults, and writes its answer if it completes. -/
theorem commandBody_resp (i : Instr) {s : State} (h : s.faulted = false) :
    ((commandBody i s).faulted = true ∧ (commandBody i s).resp = s.resp) ∨
    ((commandBody i s).faulted = false ∧ (commandBody i s).resp = commandAnswer i s) := by
  rcases commandBody_cases i s with ⟨c, v, e⟩ | ⟨hresp, hstatus, _⟩
  · exact .inl (by rw [e]; exact ⟨faulted_raiseFault c v _ s, rfl⟩)
  · exact .inr ⟨(faulted_eq_of_status hstatus).trans h, hresp⟩

/-- Only a reset, or a legal command that completes on a running block, can change `RESP`. -/
theorem step_resp {s t : State} (h : step s = .next t) :
    t.resp = s.resp ∨ nextTurn s = .reset ∨
    ∃ w i, issues s w ∧ decode w = .command i ∧ s.faulted = false ∧ t.faulted = false := by
  rw [← popTurn_resp s]
  rcases step_outcomes h with rfl | ⟨_, rfl⟩ | ⟨_, _, rfl⟩ | ⟨_, _, _, rfl⟩ | ⟨w, i, hw, hf, hd, rfl⟩ |
    ⟨_, _, rfl⟩ | ⟨hn, _⟩
  · exact .inl rfl
  · exact .inl (by rw [refCycle_frame])
  · exact .inl (by rw [tick_frame])
  · exact .inl rfl
  · rcases commandBody_resp i ((popTurn_faulted s).trans hf) with ⟨_, hresp⟩ | ⟨ht, _⟩
    · exact .inl hresp
    · exact .inr (.inr ⟨w, i, hw, hd, hf, ht⟩)
  · exact .inl (by rw [hostRead_frame])
  · exact .inr (.inl hn)

/-- Settles O19: a command faults or answers, and `step_resp` names every other step. -/
theorem respIsWrittenByCompletedCommandsOnly : Obligations.RespIsWrittenByCompletedCommandsOnly := by
  unfold Obligations.RespIsWrittenByCompletedCommandsOnly
  refine ⟨fun i s t hf h => ?_, fun w s hf => if_pos hf, fun s t h hne => (step_resp h).resolve_left hne⟩
  rw [exec_running i s hf] at h
  cases h
  rcases commandBody_resp i hf with ⟨ht, hresp⟩ | ⟨ht, hresp⟩
  · exact ⟨fun _ => hresp, fun ht' => absurd (ht.symm.trans ht') (by decide)⟩
  · refine ⟨fun ht' => absurd (ht.symm.trans ht') (by decide), fun _ => ?_⟩
    cases i with
    | getAmp v =>
      simp only [hresp, commandAnswer, BitVec.toNat_setWidth]
      exact Nat.mod_eq_of_lt (by omega)
    | beatComplete => rw [hresp, commandAnswer, flagWord_toNat]
    | _ => exact hresp

/-! ## The fault record of a step (R42, R212) -/

theorem packWord_eq {w : Word64} {op vv payload : Nat}
    (h : w.toNat = op * 2 ^ 61 + vv * 2 ^ 59 + payload) : packWord op vv payload = w := by
  rw [packWord, ← h, BitVec.ofNat_toNat, BitVec.setWidth_eq]

/-- A legal word is the encoding of the command it decodes to (R94). -/
theorem encode_of_decode {w : Word64} {i : Instr} (h : decode w = .command i) : encode i = w := by
  have hw := w.isLt
  rcases decode_cases w with ⟨_, hd⟩ | ⟨hop, hd⟩ | ⟨hop, hd⟩ | ⟨hop, hd⟩ | ⟨hop, hd⟩ | ⟨hop, hd⟩ |
    ⟨hop, hd⟩ | ⟨hop, hd⟩ <;> rw [hd] at h
  · cases h
  · cases h
    simp only [encode, bitsOfVoice_field, BitVec.ofInt_toInt, field_toNat]
    exact packWord_eq (by omega)
  all_goals
    obtain ⟨hclear, rfl⟩ := ifClear_command h
    rw [field_clear, decide_eq_true_eq] at hclear
    simp only [encode, bitsOfVoice_field, field_toNat]
    exact packWord_eq (by omega)

/-- A tick leaves the fault record, or latches a fault with the word 0. -/
theorem tick_fault_record (s : State) :
    ((tick s).status = s.status ∧ (tick s).faultCmd = s.faultCmd) ∨
    (s.faulted = false ∧ (tick s).faulted = true ∧ (tick s).faultCmd = 0) := by
  rcases tick_cases s with ⟨_, h⟩ | ⟨hf, c, v, _, h⟩ | ⟨_, _, _, _, h⟩
  · rw [h]; exact .inl ⟨rfl, rfl⟩
  · rw [h]; exact .inr ⟨hf, faulted_raiseFault c v .tick _, rfl⟩
  · rw [h, beatTick_frame]; exact .inl ⟨rfl, rfl⟩

/-- Every step but a reset leaves the fault record, or latches a fault on a running block: a host write of
a command word with that word, a turn of the Timebase with 0. -/
theorem step_fault_record {s t : State} (h : step s = .next t) (hn : nextTurn s ≠ .reset) :
    (t.status = s.status ∧ t.faultCmd = s.faultCmd) ∨
    (s.faulted = false ∧ t.faulted = true ∧
      ((∃ w, issues s w ∧ t.faultCmd = w) ∨
        ((nextTurn s = .tick ∨ nextTurn s = .refCycle) ∧ t.faultCmd = 0))) := by
  rw [← popTurn_status s, ← popTurn_faultCmd s]
  rcases step_outcomes h with rfl | ⟨_, rfl⟩ | ⟨hturn, _, rfl⟩ | ⟨w, hw, hf, rfl⟩ |
    ⟨w, i, hw, hf, hd, rfl⟩ | ⟨_, _, rfl⟩ | ⟨hturn, _⟩
  · exact .inl ⟨rfl, rfl⟩
  · rw [refCycle_frame]; exact .inl ⟨rfl, rfl⟩
  · exact (tick_fault_record (popTurn s)).imp_right fun ⟨hf, ht, hcmd⟩ =>
      ⟨popTurn_faulted s ▸ hf, ht, .inr ⟨hturn, hcmd⟩⟩
  · exact .inr ⟨hf, faulted_raiseFault _ _ _ _, .inl ⟨w, hw, rfl⟩⟩
  · rcases commandBody_cases i (popTurn s) with ⟨c, v, e⟩ | ⟨_, hstatus, hcmd⟩
    · rw [e]
      exact .inr ⟨hf, faulted_raiseFault c v _ _, .inl ⟨w, hw, encode_of_decode hd⟩⟩
    · exact .inl ⟨hstatus, hcmd⟩
  · rw [hostRead_frame]; exact .inl ⟨rfl, rfl⟩
  · exact absurd hturn hn

/-- Settles O42: the three clauses are the cases of `step_fault_record`. -/
theorem faultCmdHoldsTheFaultingWord : Obligations.FaultCmdHoldsTheFaultingWord := by
  unfold Obligations.FaultCmdHoldsTheFaultingWord
  intro s t h
  have latched (hn : nextTurn s ≠ .reset) (hf : s.faulted = false) (ht : t.faulted = true) :
      (∃ w, issues s w ∧ t.faultCmd = w) ∨
        ((nextTurn s = .tick ∨ nextTurn s = .refCycle) ∧ t.faultCmd = 0) := by
    rcases step_fault_record h hn with ⟨hstatus, _⟩ | ⟨_, _, hcases⟩
    · rw [faulted_eq_of_status hstatus, hf] at ht
      cases ht
    · exact hcases
  refine ⟨fun w hw hf ht => ?_, fun hturn hf ht => ?_, fun hn hquiet => ?_⟩
  · have hturn : nextTurn s = .hostWrite 0 .w64 w := hw
    rcases latched (by simp [hturn]) hf ht with ⟨w', hw', hcmd⟩ | ⟨hturn', _⟩
    · cases hw'.symm.trans hturn
      exact hcmd
    · simp [hturn] at hturn'
  · have hn : nextTurn s ≠ .reset := by rcases hturn with e | e <;> simp [e]
    rcases latched hn hf ht with ⟨w, hw, _⟩ | ⟨_, hcmd⟩
    · rw [issues] at hw
      simp [hw] at hturn
    · exact hcmd
  · rcases step_fault_record h hn with ⟨_, hcmd⟩ | ⟨hf, ht, _⟩
    · exact hcmd
    · simp [hf, ht] at hquiet

/-! ## The host window (R38) -/

theorem hostRead_of_windowRead {off : Nat} {width : Width} {s : State} {x : Word64}
    (h : windowRead off width s = some x) : hostRead off width s = { s with readData := x } := by
  rw [hostRead, h]

@[simp] theorem windowRead_cmd (s : State) : windowRead 0x00 .w64 s = some 0 := rfl
@[simp] theorem windowRead_resp (s : State) :
    windowRead 0x08 .w16 s = some (s.resp.setWidth 64) := rfl
@[simp] theorem windowRead_status (s : State) :
    windowRead 0x0A .w16 s = some (s.status.setWidth 64) := rfl
@[simp] theorem windowRead_reserved (s : State) : windowRead 0x0C .w32 s = some 0 := rfl
@[simp] theorem windowRead_faultCmd (s : State) : windowRead 0x10 .w64 s = some s.faultCmd := rfl

theorem zext64_toNat (x : Word16) : (x.setWidth 64).toNat = x.toNat := by
  rw [BitVec.toNat_setWidth]
  exact Nat.mod_eq_of_lt (by omega)

theorem step_hostRead {s : State} {off : Nat} {width : Width} (h : nextTurn s = .hostRead off width) :
    step s = .next (hostRead off width (popTurn s)) := by rw [step, h]; rfl

/-- A host read leaves everything but the model's own fields. -/
theorem hostRead_popTurn_frame (off : Nat) (width : Width) (s : State) :
    hostRead off width (popTurn s) = { s with
      schedule := (hostRead off width (popTurn s)).schedule
      draws := (hostRead off width (popTurn s)).draws
      readData := (hostRead off width (popTurn s)).readData } := by
  rw [hostRead_frame, popTurn_frame]

/-- Only a 64-bit write at offset 0 issues a command. -/
theorem step_hostWrite {s : State} {off : Nat} {width : Width} {data : Word64}
    (h : nextTurn s = .hostWrite off width data) :
    if off = 0 ∧ width = .w64 then step s = issueCommand data (popTurn s)
    else step s = .next (popTurn s) := by
  have hstep : step s = hostWrite off width data (popTurn s) := by rw [step, h]; rfl
  rw [hstep, hostWrite]
  split <;> next hc => simp [isCommandWrite_iff, hc]

/-- Settles O11: a write by `isCommandWrite`, a read row by row of the map. -/
theorem hostWindowFollowsTheMap : Obligations.HostWindowFollowsTheMap := by
  unfold Obligations.HostWindowFollowsTheMap
  refine ⟨fun s off width data => step_hostWrite, fun s off width hn hrow => ?_, rfl, rfl, rfl⟩
  refine ⟨_, step_hostRead hn, hostRead_popTurn_frame off width s, ?_⟩
  simp only [List.mem_cons, Prod.mk.injEq, List.not_mem_nil, or_false] at hrow
  rcases hrow with ⟨rfl, rfl⟩ | ⟨rfl, rfl⟩ | ⟨rfl, rfl⟩ | ⟨rfl, rfl⟩ | ⟨rfl, rfl⟩
  · simp [hostRead_of_windowRead (windowRead_cmd _)]
  · simp [hostRead_of_windowRead (windowRead_resp _), zext64_toNat, -BitVec.toNat_setWidth]
  · simp [hostRead_of_windowRead (windowRead_status _), zext64_toNat, -BitVec.toNat_setWidth]
  · simp [hostRead_of_windowRead (windowRead_reserved _)]
  · simp [hostRead_of_windowRead (windowRead_faultCmd _)]

/-! ## The voices share no state (R22, R115) -/

/-- The modulation gate changes nothing: its hook is a no-op (R133). -/
theorem voiceSample_applyMod (t : List Host.Cell) (updEnv applyMod applyMod' : Bool) (x : Voice) :
    voiceSample t updEnv applyMod x = voiceSample t updEnv applyMod' x := by
  simp only [voiceSample, modulationHook, ite_self]

theorem updEnvOf_congr {s s' : State} (h : s.divEnv = s'.divEnv) : updEnvOf s = updEnvOf s' := by
  simp only [updEnvOf, stepDividers_divEnv, h]

/-- Settles O52: the new voice is the sample step's, which reads the tables, the envelope gate and the
voice alone. -/
theorem tickOfAVoiceIgnoresTheOthers : Obligations.TickOfAVoiceIgnoresTheOthers := by
  unfold Obligations.TickOfAVoiceIgnoresTheOthers
  intro s s' v htables hdiv hvoice hok hok'
  obtain ⟨n, hn⟩ := tick_completed_voice hok v
  obtain ⟨n', hn'⟩ := tick_completed_voice hok' v
  rw [htables, updEnvOf_congr hdiv, hvoice, voiceSample_applyMod _ _ _ (applyModOf s'), hn'] at hn
  exact (VoiceResult.sample.inj hn).1.symm

end Sys2Proof.Machine
end

section
/-! PROOFS. The encoding of 30_encoding.md: the decoder format by format (R82 to R87), the opcode map
(R88, R93), decode against encode (R94), the assembler (R96, R97), and the command step (R95). -/

namespace Sys2Proof

/-! ## The decoder, opcode by opcode (R82 to R87) -/

/-- A word's command is accepted when its reserved field is 0 (R93). -/
theorem ifClear_field (w : Word64) (lo len : Nat) (i : Instr) :
    ifClear (field w lo len == 0#len) i =
      if w.toNat / 2 ^ lo % 2 ^ len = 0 then .command i else .illegal .reservedBits := by
  rw [ifClear, ← BitVec.ofNat_eq_ofNat, field_clear]
  simp only [decide_eq_true_eq]

section
variable {w : Word64}

theorem decode_opcode_setup (h : w.toNat / 2 ^ 61 = 1) :
    decode w = .command (.setup (voiceOfBits (field w 59 2)) (field w 51 8) (field w 35 16)
      (field w 27 8) (field w 11 16) (field w 0 11).toInt) := by
  simpa [h, -Nat.reducePow] using decode_cases w

theorem decode_opcode_triggerMidi (h : w.toNat / 2 ^ 61 = 2) :
    decode w = if w.toNat / 2 ^ 7 % 2 ^ 52 = 0 then
      .command (.triggerMidi (voiceOfBits (field w 59 2)) (field w 0 7))
    else .illegal .reservedBits := by
  simpa [h, ifClear_field, -Nat.reducePow] using decode_cases w

theorem decode_opcode_retrigger (h : w.toNat / 2 ^ 61 = 3) :
    decode w = if w.toNat % 2 ^ 59 = 0 then .command (.retrigger (voiceOfBits (field w 59 2)))
    else .illegal .reservedBits := by
  simpa [h, ifClear_field, -Nat.reducePow] using decode_cases w

theorem decode_opcode_triggerHz (h : w.toNat / 2 ^ 61 = 4) :
    decode w = if w.toNat / 2 ^ 16 % 2 ^ 43 = 0 then
      .command (.triggerHz (voiceOfBits (field w 59 2)) (field w 0 16))
    else .illegal .reservedBits := by
  simpa [h, ifClear_field, -Nat.reducePow] using decode_cases w

theorem decode_opcode_getAmp (h : w.toNat / 2 ^ 61 = 5) :
    decode w = if w.toNat % 2 ^ 59 = 0 then .command (.getAmp (voiceOfBits (field w 59 2)))
    else .illegal .reservedBits := by
  simpa [h, ifClear_field, -Nat.reducePow] using decode_cases w

theorem decode_opcode_setBpm (h : w.toNat / 2 ^ 61 = 6) :
    decode w = if w.toNat / 2 ^ 8 % 2 ^ 53 = 0 then .command (.setBpm (field w 0 8))
    else .illegal .reservedBits := by
  simpa [h, ifClear_field, -Nat.reducePow] using decode_cases w

theorem decode_opcode_beatComplete (h : w.toNat / 2 ^ 61 = 7) :
    decode w = if w.toNat % 2 ^ 61 = 0 then .command .beatComplete
    else .illegal .reservedBits := by
  simpa [h, ifClear_field, -Nat.reducePow] using decode_cases w

/-- The voice whose index stands in [60:59] is the voice decoded. -/
theorem voiceOfBits_field_eq {v : VoiceId} (h : (bitsOfVoice v).toNat = w.toNat / 2 ^ 59 % 4) :
    voiceOfBits (field w 59 2) = v := by
  rw [field_eq_of w 59 2 (bitsOfVoice v) h.symm, voiceOfBits_bitsOfVoice]

end

/-- A field at bit 0 is a remainder. -/
theorem field_zero_toNat (w : Word64) (len : Nat) : (field w 0 len).toNat = w.toNat % 2 ^ len := by
  rw [field_toNat, pow_zero, Nat.div_one]

/-- `mdep` in two's complement (R90). -/
theorem mdepField_toInt (w : Word64) :
    (field w 0 11).toInt = if w.toNat % 2 ^ 11 < 1024 then ((w.toNat % 2 ^ 11 : Nat) : Int)
      else ((w.toNat % 2 ^ 11 : Nat) : Int) - 2048 := by
  rw [BitVec.toInt_eq_toNat_cond, field_zero_toNat]
  split_ifs <;> omega

/-- Settles O2: each clause is the decoder's equation for that opcode, each operand a field read as a
number. -/
theorem formatsDecodeFieldByField : Obligations.FormatsDecodeFieldByField := by
  unfold Obligations.FormatsDecodeFieldByField
  intro w v hv
  have hvoice := voiceOfBits_field_eq hv
  refine ⟨fun h => ?_, fun h => ?_, fun h => ?_, fun h => ?_, fun h => ?_, fun h => ?_, fun h => ?_⟩
  · rw [decode_opcode_setup h, hvoice, mdepField_toInt]
    exact ⟨_, _, _, _, rfl, field_toNat w 51 8, field_toNat w 35 16, field_toNat w 27 8,
      field_toNat w 11 16⟩
  · rw [decode_opcode_triggerMidi h, hvoice]
    split_ifs
    · exact ⟨_, rfl, field_zero_toNat w 7⟩
    · rfl
  · rw [decode_opcode_retrigger h, hvoice]
    split_ifs <;> rfl
  · rw [decode_opcode_triggerHz h, hvoice]
    split_ifs
    · exact ⟨_, rfl, field_zero_toNat w 16⟩
    · rfl
  · rw [decode_opcode_getAmp h, hvoice]
    split_ifs <;> rfl
  · rw [decode_opcode_setBpm h]
    split_ifs
    · exact ⟨_, rfl, field_zero_toNat w 8⟩
    · rfl
  · rw [decode_opcode_beatComplete h]
    split_ifs <;> rfl

/-! ## Decode and encode (R94) -/

/-- The `mdep` a word holds is in the range of R91. -/
theorem mdepField_bounds (w : Word64) : -1024 ≤ (field w 0 11).toInt ∧ (field w 0 11).toInt ≤ 1023 := by
  rw [mdepField_toInt]
  split_ifs <;> omega

/-- A decoded command is well formed: only `mdep` could fail to be. -/
theorem wellFormed_of_decode {w : Word64} {i : Instr} (h : decode w = .command i) :
    i.wellFormed = true := by
  rcases decode_cases w with ⟨_, hd⟩ | ⟨_, hd⟩ | ⟨_, hd⟩ | ⟨_, hd⟩ | ⟨_, hd⟩ | ⟨_, hd⟩ | ⟨_, hd⟩ |
    ⟨_, hd⟩ <;> rw [hd] at h
  · cases h
  · cases h
    exact decide_eq_true (mdepField_bounds w)
  all_goals
    obtain ⟨_, rfl⟩ := ifClear_command h
    rfl

/-- Settles O4, by `encode_of_decode` and `wellFormed_of_decode`. -/
theorem encodeAfterDecodeIsIdentity : Obligations.EncodeAfterDecodeIsIdentity := by
  unfold Obligations.EncodeAfterDecodeIsIdentity
  exact fun _ _ h => ⟨Machine.encode_of_decode h, wellFormed_of_decode h⟩

/-- The `op` and `vv` fields and the payload of a packed word, as its number holds them (R81). -/
theorem packWord_parts {op vv payload : Nat} (ho : op < 8) (hv : vv < 4) (hp : payload < 2 ^ 59) :
    (packWord op vv payload).toNat / 2 ^ 61 = op ∧ (packWord op vv payload).toNat / 2 ^ 59 % 4 = vv ∧
    (packWord op vv payload).toNat % 2 ^ 59 = payload := by
  rw [packWord_toNat op vv payload ho hv hp]
  omega

/-- The 11-bit field of a well-formed `mdep` reads back as it. -/
theorem toInt_ofInt_mdep {mdep : Int} (h : -1024 ≤ mdep ∧ mdep ≤ 1023) :
    (BitVec.ofInt 11 mdep).toInt = mdep := by
  rw [BitVec.toInt_ofInt, Int.bmod_eq_of_le] <;> omega

theorem decode_encode_setup (v : VoiceId) (wref : Byte) (winc : Word16) (eref : Byte) (einc : Word16)
    {mdep : Int} (h : -1024 ≤ mdep ∧ mdep ≤ 1023) :
    decode (encode (.setup v wref winc eref einc mdep)) = .command (.setup v wref winc eref einc mdep) := by
  have hpay := setupPayload_lt wref winc eref einc (BitVec.ofInt 11 mdep)
  obtain ⟨hop, hvv, hp⟩ := packWord_parts (op := 1) (by decide) (bitsOfVoice v).isLt hpay
  have := wref.isLt; have := winc.isLt; have := eref.isLt; have := einc.isLt
  have := (BitVec.ofInt 11 mdep).isLt
  rw [encode, decode_opcode_setup hop, voiceOfBits_field_eq hvv.symm,
    field_eq_of _ 51 8 wref (by omega), field_eq_of _ 35 16 winc (by omega),
    field_eq_of _ 27 8 eref (by omega), field_eq_of _ 11 16 einc (by omega),
    field_eq_of _ 0 11 (BitVec.ofInt 11 mdep) (by omega), toInt_ofInt_mdep h]

/-- Decoding the word of a well-formed command gives the command back (R94). -/
theorem decode_encode {i : Instr} (h : i.wellFormed = true) : decode (encode i) = .command i := by
  cases i with
  | setup v wref winc eref einc mdep =>
    exact decode_encode_setup v wref winc eref einc (of_decide_eq_true h)
  | triggerMidi v note =>
    have := note.isLt
    obtain ⟨hop, hvv, hp⟩ := packWord_parts (op := 2) (by decide) (bitsOfVoice v).isLt
      (payload := note.toNat) (by omega)
    rw [encode, decode_opcode_triggerMidi hop, if_pos (by omega), voiceOfBits_field_eq hvv.symm,
      field_eq_of _ 0 7 note (by omega)]
  | retrigger v =>
    obtain ⟨hop, hvv, hp⟩ := packWord_parts (op := 3) (by decide) (bitsOfVoice v).isLt
      (payload := 0) (by decide)
    rw [encode, decode_opcode_retrigger hop, if_pos hp, voiceOfBits_field_eq hvv.symm]
  | triggerHz v freq =>
    have := freq.isLt
    obtain ⟨hop, hvv, hp⟩ := packWord_parts (op := 4) (by decide) (bitsOfVoice v).isLt
      (payload := freq.toNat) (by omega)
    rw [encode, decode_opcode_triggerHz hop, if_pos (by omega), voiceOfBits_field_eq hvv.symm,
      field_eq_of _ 0 16 freq (by omega)]
  | getAmp v =>
    obtain ⟨hop, hvv, hp⟩ := packWord_parts (op := 5) (by decide) (bitsOfVoice v).isLt
      (payload := 0) (by decide)
    rw [encode, decode_opcode_getAmp hop, if_pos hp, voiceOfBits_field_eq hvv.symm]
  | setBpm bpm =>
    have := bpm.isLt
    obtain ⟨hop, hvv, hp⟩ := packWord_parts (op := 6) (vv := 0) (by decide) (by decide)
      (payload := bpm.toNat) (by omega)
    rw [encode, decode_opcode_setBpm hop, if_pos (by omega), field_eq_of _ 0 8 bpm (by omega)]
  | beatComplete => decide

/-! ## The opcode map (R88, R93) -/

/-- `len` ones from bit `lo` up. -/
def onesAt (lo len : Nat) : Word64 := (BitVec.allOnes len).setWidth 64 <<< lo

/-- The row of a format with opcode `op` whose reserved bits are the `len` bits from `lo` up: its mask is
the opcode and the reserved bits. -/
def formatRow (op : BitVec 3) (lo len : Nat) : OpcodeRow :=
  ⟨op, op.setWidth 64 <<< 61, onesAt 61 3 ||| onesAt lo len⟩

/-- The map as R82 to R87 give its reserved bits. -/
theorem opcodeMap_eq : opcodeMap =
    [formatRow 1 0 0, formatRow 2 7 52, formatRow 3 0 59, formatRow 4 16 43, formatRow 5 0 59,
      formatRow 6 8 53, formatRow 7 0 61] := by decide

theorem getLsbD_onesAt (lo len k : Nat) :
    (onesAt lo len).getLsbD k = decide (k < 64 ∧ lo ≤ k ∧ k < lo + len) := by
  simp only [onesAt, BitVec.getLsbD_shiftLeft, BitVec.getLsbD_setWidth, BitVec.getLsbD_allOnes]
  grind

theorem getLsbD_field (w : Word64) (lo len k : Nat) :
    (field w lo len).getLsbD k = (decide (k < len) && w.getLsbD (lo + k)) :=
  BitVec.getLsbD_extractLsb' ..

/-- A row accepts the words that carry its opcode and whose reserved bits are 0. -/
theorem formatRow_accepts_iff_field (w : Word64) (op : BitVec 3) {lo len : Nat} (h : lo + len ≤ 61) :
    w &&& (formatRow op lo len).mask = (formatRow op lo len).pattern ↔
      field w 61 3 = op ∧ field w lo len = 0 := by
  simp only [formatRow, BitVec.eq_of_getLsbD_eq_iff, BitVec.getLsbD_and, BitVec.getLsbD_or,
    getLsbD_onesAt, BitVec.getLsbD_shiftLeft, BitVec.getLsbD_setWidth, getLsbD_field]
  constructor
  · intro hbit
    constructor
    · intro k hk
      have := hbit (61 + k) (by omega)
      grind
    · intro k hk
      have := hbit (lo + k) (by omega)
      grind
  · rintro ⟨hop, hclear⟩ k hk
    have h1 := hop (k - 61)
    have h2 := hclear (k - lo)
    grind

theorem field_opcode_toNat (w : Word64) : (field w 61 3).toNat = w.toNat / 2 ^ 61 := by
  have := w.isLt
  rw [field_toNat]
  omega

/-- A row accepts the words whose number has its opcode in [63:61] and 0 in its reserved field. -/
theorem formatRow_accepts_iff (w : Word64) (op : BitVec 3) {lo len : Nat} (h : lo + len ≤ 61) :
    w &&& (formatRow op lo len).mask = (formatRow op lo len).pattern ↔
      w.toNat / 2 ^ 61 = op.toNat ∧ w.toNat / 2 ^ lo % 2 ^ len = 0 := by
  rw [formatRow_accepts_iff_field w op h, ← beq_iff_eq (a := field w lo len), field_clear,
    decide_eq_true_eq, ← BitVec.toNat_inj, field_opcode_toNat]

/-- Every row of the map is a format's row. -/
theorem eq_formatRow_of_mem {r : OpcodeRow} (h : r ∈ opcodeMap) :
    ∃ lo len, lo + len ≤ 61 ∧ r = formatRow r.op lo len := by
  rw [opcodeMap_eq] at h
  simp only [List.mem_cons, List.not_mem_nil, or_false] at h
  rcases h with rfl | rfl | rfl | rfl | rfl | rfl | rfl <;> exact ⟨_, _, by decide, rfl⟩

/-- A word that a row of the map accepts carries the row's opcode. -/
theorem opcode_of_accepts {w : Word64} {r : OpcodeRow} (hr : r ∈ opcodeMap)
    (h : w &&& r.mask = r.pattern) : w.toNat / 2 ^ 61 = r.op.toNat := by
  obtain ⟨lo, len, hle, hrow⟩ := eq_formatRow_of_mem hr
  rw [hrow] at h
  exact ((formatRow_accepts_iff w r.op hle).1 h).1

/-- No two rows of the map have one opcode. -/
theorem opcodeMap_op_injective :
    ∀ r ∈ opcodeMap, ∀ r' ∈ opcodeMap, r.op = r'.op → r = r' := by decide

/-- `Legal(w)`, opcode by opcode: which reserved bits must be 0. -/
theorem legalWord_iff (w : Word64) : Machine.legalWord w ↔
    w.toNat / 2 ^ 61 = 1 ∨
    (w.toNat / 2 ^ 61 = 2 ∧ w.toNat / 2 ^ 7 % 2 ^ 52 = 0) ∨
    (w.toNat / 2 ^ 61 = 3 ∧ w.toNat % 2 ^ 59 = 0) ∨
    (w.toNat / 2 ^ 61 = 4 ∧ w.toNat / 2 ^ 16 % 2 ^ 43 = 0) ∨
    (w.toNat / 2 ^ 61 = 5 ∧ w.toNat % 2 ^ 59 = 0) ∨
    (w.toNat / 2 ^ 61 = 6 ∧ w.toNat / 2 ^ 8 % 2 ^ 53 = 0) ∨
    (w.toNat / 2 ^ 61 = 7 ∧ w.toNat % 2 ^ 61 = 0) := by
  have hlegal : Machine.legalWord w ↔ ∃ r ∈ opcodeMap, w &&& r.mask = r.pattern :=
    ⟨fun ⟨r, hr, _, h⟩ => ⟨r, hr, h⟩, fun ⟨r, hr, h⟩ => ⟨r, hr, (opcode_of_accepts hr h).symm, h⟩⟩
  rw [hlegal, opcodeMap_eq]
  simp [formatRow_accepts_iff, Nat.mod_one, -Nat.reducePow]

theorem exists_ifClear_command (b : Bool) (i : Instr) :
    (∃ j, ifClear b i = .command j) ↔ b = true := by
  cases b <;> simp [ifClear]

/-- The decoder and the opcode map agree on which words are commands (R93). -/
theorem exists_decode_iff_legalWord (w : Word64) :
    (∃ i, decode w = .command i) ↔ Machine.legalWord w := by
  rw [legalWord_iff]
  rcases decode_cases w with ⟨h, hd⟩ | ⟨h, hd⟩ | ⟨h, hd⟩ | ⟨h, hd⟩ | ⟨h, hd⟩ | ⟨h, hd⟩ | ⟨h, hd⟩ |
    ⟨h, hd⟩ <;> rw [hd, h]
  · simp
  · simp
  all_goals
    rw [exists_ifClear_command, field_clear]
    simp

/-- A command's row stands in the map, and its word carries the row's opcode. -/
theorem opcodeField (i : Instr) : Laws.OpcodeField.Statement i := by
  cases i with
  | setup v wref winc eref einc mdep => exact Laws.OpcodeField.setup v wref winc eref einc mdep
  | triggerMidi v note => exact Laws.OpcodeField.triggerMidi v note
  | retrigger v => exact Laws.OpcodeField.retrigger v
  | triggerHz v freq => exact Laws.OpcodeField.triggerHz v freq
  | getAmp v => exact Laws.OpcodeField.getAmp v
  | setBpm bpm => exact Laws.OpcodeField.setBpm bpm
  | beatComplete => exact Laws.OpcodeField.beatComplete

/-- Settles O6: a row accepts words of its own opcode only; a decoded word is legal and carries the opcode
of its command's row. -/
theorem opcodeRowsSelectOneCommand : Obligations.OpcodeRowsSelectOneCommand := by
  unfold Obligations.OpcodeRowsSelectOneCommand
  intro w
  refine ⟨fun r hr r' hr' h h' => ?_, fun i hd => ?_⟩
  · refine opcodeMap_op_injective r hr r' hr' (BitVec.eq_of_toNat_eq ?_)
    rw [← opcode_of_accepts hr h, ← opcode_of_accepts hr' h']
  · obtain ⟨hmem, hop⟩ := opcodeField i
    obtain ⟨r, hr, hrop, haccepts⟩ := (exists_decode_iff_legalWord w).1 ⟨i, hd⟩
    rw [Machine.encode_of_decode hd, ← hrop] at hop
    cases opcodeMap_op_injective r hr (rowOf i) hmem (BitVec.eq_of_toNat_eq hop)
    exact ⟨hmem, haccepts⟩

end Sys2Proof

namespace Sys2Proof.Machine

/-! ## The assembler (R96, R97) -/

theorem fits_of_lt {n x : Nat} (h : x < 2 ^ n) : fits n x = some (BitVec.ofNat n x) := if_pos h

theorem fits_of_not_lt {n x : Nat} (h : ¬ x < 2 ^ n) : fits n x = none := if_neg h

theorem lt_of_fits {n x : Nat} {b : BitVec n} (h : fits n x = some b) : x < 2 ^ n := by
  by_contra hx
  rw [fits_of_not_lt hx] at h
  cases h

theorem fits_toNat {n : Nat} (b : BitVec n) : fits n b.toNat = some b := by
  rw [fits_of_lt b.isLt, BitVec.ofNat_toNat, BitVec.setWidth_eq]

theorem asmVoice_of_lt {v : Nat} (h : v < 4) :
    ∃ u, asmVoice v = some u ∧ (bitsOfVoice u).toNat = v := by
  refine ⟨voiceOfBits (BitVec.ofNat 2 v), by rw [asmVoice, fits_of_lt h]; rfl, ?_⟩
  rw [bitsOfVoice_voiceOfBits, BitVec.toNat_ofNat]
  exact Nat.mod_eq_of_lt h

theorem asmVoice_of_not_lt {v : Nat} (h : ¬ v < 4) : asmVoice v = none := by
  rw [asmVoice, fits_of_not_lt h, Option.map_none]

theorem lt_of_asmVoice {v : Nat} {u : VoiceId} (h : asmVoice v = some u) : v < 4 := by
  by_contra hv
  rw [asmVoice_of_not_lt hv] at h
  cases h

/-- A line that names a voice and nothing else. -/
theorem assemble_voice_line {line : AsmLine} {cmd : VoiceId → Instr} {v : Nat}
    (hline : assemble line = (asmVoice v).map fun u => encode (cmd u))
    (hwf : ∀ u, (cmd u).wellFormed = true) :
    if v < 4 then ∃ w u, assemble line = some w ∧ (bitsOfVoice u).toNat = v ∧ decode w = .command (cmd u)
    else assemble line = none := by
  rw [hline]
  split_ifs with hv
  · obtain ⟨u, hu, hbits⟩ := asmVoice_of_lt hv
    exact ⟨_, u, by rw [hu, Option.map_some], hbits, decode_encode (hwf u)⟩
  · rw [asmVoice_of_not_lt hv, Option.map_none]

/-- A line that names a voice and an operand of `n` bits. -/
theorem assemble_voice_operand_line {line : AsmLine} {n : Nat} {cmd : VoiceId → BitVec n → Instr}
    {v x : Nat}
    (hline : assemble line = (asmVoice v).bind fun u => (fits n x).map fun b => encode (cmd u b))
    (hwf : ∀ u b, (cmd u b).wellFormed = true) :
    if v < 4 ∧ x < 2 ^ n then ∃ w u, assemble line = some w ∧ (bitsOfVoice u).toNat = v ∧
      decode w = .command (cmd u (BitVec.ofNat n x))
    else assemble line = none := by
  rw [hline]
  by_cases hv : v < 4
  · obtain ⟨u, hu, hbits⟩ := asmVoice_of_lt hv
    rw [hu, Option.bind_some]
    split_ifs with h
    · exact ⟨_, u, by rw [fits_of_lt h.2, Option.map_some], hbits, decode_encode (hwf u _)⟩
    · rw [fits_of_not_lt fun hx => h ⟨hv, hx⟩, Option.map_none]
  · rw [if_neg fun h => hv h.1, asmVoice_of_not_lt hv, Option.bind_none]

theorem assemble_triggerMidi (v note : Nat) : assemble (.triggerMidi v note) =
    (asmVoice v).bind fun u => (fits 7 note).map fun b => encode (.triggerMidi u b) := by
  rw [assemble]
  cases asmVoice v <;> cases fits 7 note <;> rfl

theorem assemble_triggerHz (v freq : Nat) : assemble (.triggerHz v freq) =
    (asmVoice v).bind fun u => (fits 16 freq).map fun b => encode (.triggerHz u b) := by
  rw [assemble]
  cases asmVoice v <;> cases fits 16 freq <;> rfl

/-- A `SETUP` line whose operands fit assembles to the command's word. -/
theorem assemble_setup_of_fits {v wave winc env einc : Nat} {mdep : Int}
    (hv : v < 4) (hwave : wave < 2 ^ 8) (hwinc : winc < 2 ^ 16) (henv : env < 2 ^ 8)
    (heinc : einc < 2 ^ 16) (hmdep : -1024 ≤ mdep ∧ mdep ≤ 1023) :
    ∃ w u, assemble (.setup v wave winc env einc mdep) = some w ∧ (bitsOfVoice u).toNat = v ∧
      decode w = .command (.setup u (BitVec.ofNat 8 wave) (BitVec.ofNat 16 winc) (BitVec.ofNat 8 env)
        (BitVec.ofNat 16 einc) mdep) := by
  obtain ⟨u, hu, hbits⟩ := asmVoice_of_lt hv
  refine ⟨_, u, ?_, hbits, decode_encode_setup u _ _ _ _ hmdep⟩
  rw [assemble, asmSetup.eq_def, hu, fits_of_lt hwave, fits_of_lt hwinc, fits_of_lt henv, fits_of_lt heinc]
  exact if_pos (decide_eq_true hmdep)

/-- A `SETUP` line assembles only if every operand fits. -/
theorem assemble_setup_fits {v wave winc env einc : Nat} {mdep : Int} {w : Word64}
    (h : assemble (.setup v wave winc env einc mdep) = some w) :
    v < 4 ∧ wave < 2 ^ 8 ∧ winc < 2 ^ 16 ∧ env < 2 ^ 8 ∧ einc < 2 ^ 16 ∧ -1024 ≤ mdep ∧ mdep ≤ 1023 := by
  rw [assemble, asmSetup.eq_def] at h
  split at h
  · next hu hwave hwinc henv heinc =>
    obtain ⟨hwf, _⟩ := Option.ite_none_right_eq_some.1 h
    exact ⟨lt_of_asmVoice hu, lt_of_fits hwave, lt_of_fits hwinc, lt_of_fits henv, lt_of_fits heinc,
      of_decide_eq_true hwf⟩
  · cases h

/-- `SETUP_HZ` is the `SETUP` of the increments its host functions give. -/
theorem assemble_setupHz {v wave env : Nat} {hz secs : Quantity} {mdep : Int} {winc einc : Word16}
    (hwinc : hostPitchInc hz = some winc) (heinc : hostLenInc secs = some einc) :
    assemble (.setupHz v wave hz env secs mdep) =
      assemble (.setup v wave winc.toNat env einc.toNat mdep) := by
  rw [assemble, assemble, hwinc, heinc, fits_toNat, fits_toNat]

/-- Settles O7, line by line: what fits assembles to the command's word, which decodes to the command. -/
theorem assemblerTakesExactlyWhatFits : Obligations.AssemblerTakesExactlyWhatFits := by
  unfold Obligations.AssemblerTakesExactlyWhatFits
  refine ⟨fun v wave winc env einc mdep => ?_,
    fun v note => assemble_voice_operand_line (assemble_triggerMidi v note) fun _ _ => rfl,
    fun v => assemble_voice_line (cmd := .retrigger) rfl fun _ => rfl,
    fun v freq => assemble_voice_operand_line (assemble_triggerHz v freq) fun _ _ => rfl,
    fun v => assemble_voice_line (cmd := .getAmp) rfl fun _ => rfl,
    fun bpm => ?_, ⟨_, rfl, decode_encode rfl⟩, fun v => rfl,
    fun v wave env hz secs mdep winc einc => assemble_setupHz, fun n => rfl⟩
  · split_ifs with h
    · obtain ⟨hv, hwave, hwinc, henv, heinc, hmdep⟩ := h
      exact assemble_setup_of_fits hv hwave hwinc henv heinc hmdep
    · exact Option.eq_none_iff_forall_ne_some.2 fun w hw => h (assemble_setup_fits hw)
  · rw [assemble]
    split_ifs with h
    · exact ⟨_, by rw [fits_of_lt h, Option.map_some], decode_encode rfl⟩
    · rw [fits_of_not_lt h, Option.map_none]

/-! ## The command step (R93, R95) -/

/-- The step of a host write to `CMD`. -/
theorem step_issues {s : State} {w : Word64} (h : issues s w) : step s = issueCommand w (popTurn s) :=
  step_hostWrite h

/-- A legal word on a running block runs its command. -/
theorem issueCommand_legal {s : State} {w : Word64} {i : Instr} (hf : s.faulted = false)
    (hd : decode w = .command i) : issueCommand w s = exec i s := by
  simp [issueCommand, hf, hd]

/-- An illegal word on a running block latches `ILLEGAL_COMMAND`. -/
theorem issueCommand_illegal {s : State} {w : Word64} (hf : s.faulted = false) (h : ¬ legalWord w) :
    issueCommand w s = .next (raiseFault .illegalCommand .v0 (.command w) s) := by
  cases hd : decode w with
  | command i => exact absurd ((exists_decode_iff_legalWord w).1 ⟨i, hd⟩) h
  | illegal why => simp [issueCommand, hf, hd]

theorem faultStatus_illegalCommand : faultStatus .illegalCommand .v0 false = 0x0003 := by decide

/-- Settles O5, by `exists_decode_iff_legalWord` and the fault an illegal word raises. -/
theorem illegalWordsAreThoseTheOpcodeMapRejects :
    Obligations.IllegalWordsAreThoseTheOpcodeMapRejects := by
  unfold Obligations.IllegalWordsAreThoseTheOpcodeMapRejects
  refine fun w => ⟨exists_decode_iff_legalWord w, fun s hw hissues hf => ?_⟩
  rw [step_issues hissues, issueCommand_illegal ((popTurn_faulted s).trans hf) hw, raiseFault,
    operationTick, operationWord, faultStatus_illegalCommand]

theorem tableWord_toNat (w : Word64) : tableWord 64 w.toNat = w := by
  rw [tableWord, Nat.mod_eq_of_lt w.isLt, BitVec.ofNat_toNat, BitVec.setWidth_eq]

theorem issues_placeCommand (w : Word64) (s : State) : issues (placeCommand w s) w := rfl

theorem popTurn_placeCommand (w : Word64) (s : State) : popTurn (placeCommand w s) = s := rfl

/-- Settles O8: the step is the port's, on the state the turn was taken from. -/
theorem stepRunsTheDecodedCommand : Obligations.StepRunsTheDecodedCommand := by
  unfold Obligations.StepRunsTheDecodedCommand
  refine ⟨fun s w i hissues hf hd => ⟨?_, popTurn_frame s⟩, fun s w i hf hd => ?_⟩
  · rw [step_issues hissues, issueCommand_legal ((popTurn_faulted s).trans hf) hd]
  · rw [State.withFetchWord, tableWord_toNat, step_issues (issues_placeCommand w s),
      popTurn_placeCommand, issueCommand_legal hf hd]

end Sys2Proof.Machine
end

section
/-! PROOFS. The timebase and the tick (40_timebase.md sections 1 and 2): the reference cycle, the units of a
tick in their order, and which steps run a tick. -/

namespace Sys2Proof.Machine

/-- Settles O10: the step is a function of the state. -/
theorem everyStepGivesANextState : Obligations.EveryStepGivesANextState := by
  unfold Obligations.EveryStepGivesANextState
  exact fun s => ⟨_, step_eq s⟩

/-! ## The reference cycle (R110, R111) -/

theorem matchIsNext_iff (s : State) : matchIsNext s = true ↔ s.tbRef + 1 = s.tbNext := beq_iff_eq

theorem matchIsNext_eq_false_iff (s : State) : matchIsNext s = false ↔ s.tbRef + 1 ≠ s.tbNext :=
  beq_eq_false_iff_ne

theorem matchIsNext_iff_toNat (s : State) :
    matchIsNext s = true ↔ (s.tbRef.toNat + 1) % 65536 = s.tbNext.toNat := by
  rw [matchIsNext_iff, ← BitVec.toNat_inj, BitVec.toNat_add]
  rfl

theorem refCycle_of_match {s : State} (h : matchIsNext s = true) :
    refCycle s = { s with tbRef := s.tbRef + 1, tbNext := s.tbNext + 250, tbPend := true } := if_pos h

theorem refCycle_of_no_match {s : State} (h : matchIsNext s = false) :
    refCycle s = { s with tbRef := s.tbRef + 1 } := if_neg (by simp [h])

/-- Settles O25, by the two cases of the reference cycle. -/
theorem refCycleCountsAndRaisesTheTick : Obligations.RefCycleCountsAndRaisesTheTick := by
  unfold Obligations.RefCycleCountsAndRaisesTheTick
  intro s
  refine ⟨_, rfl, ?_⟩
  cases h : matchIsNext s with
  | true =>
    rw [refCycle_of_match h]
    exact ⟨BitVec.toNat_add _ _, fun _ => ⟨BitVec.toNat_add _ _, rfl⟩,
      fun hne => absurd ((matchIsNext_iff s).1 h) hne, rfl⟩
  | false =>
    rw [refCycle_of_no_match h]
    refine ⟨BitVec.toNat_add _ _, fun heq => ?_, fun _ => ⟨rfl, rfl⟩, rfl⟩
    exact absurd heq ((matchIsNext_eq_false_iff s).1 h)

/-- Less than 2^16 cycles lie before the next multiple of 250, so the wrapped counters are equal exactly at
one. -/
theorem threshold_reached_iff (m : Nat) :
    (m % 65536 + 1) % 65536 = 250 * (m / 250 + 1) % 65536 ↔ 250 ∣ m + 1 := by omega

/-- The counters after `m` reference cycles from reset. -/
theorem refCycles_reset_counters (m : Nat) :
    (refCycles m State.reset).tbRef.toNat = m % 65536 ∧
    (refCycles m State.reset).tbNext.toNat = 250 * (m / 250 + 1) % 65536 := by
  induction m with
  | zero => exact ⟨rfl, rfl⟩
  | succ m ih =>
    obtain ⟨href, hnext⟩ := ih
    have hmatch := matchIsNext_iff_toNat (refCycles m State.reset)
    rw [href, hnext, threshold_reached_iff] at hmatch
    rw [refCycles]
    cases h : matchIsNext (refCycles m State.reset) with
    | true =>
      have hdvd := hmatch.1 h
      rw [refCycle_of_match h]
      simp only [BitVec.toNat_add, href, hnext, BitVec.reduceToNat]
      omega
    | false =>
      have hdvd : ¬ 250 ∣ m + 1 := by simpa [h] using hmatch
      rw [refCycle_of_no_match h]
      simp only [BitVec.toNat_add, href, hnext, BitVec.reduceToNat]
      omega

/-- Settles O26: the counters by induction on the number of cycles, the match from the counters. -/
theorem ticksAreRaisedEvery250Cycles : Obligations.TicksAreRaisedEvery250Cycles := by
  unfold Obligations.TicksAreRaisedEvery250Cycles
  intro m
  obtain ⟨href, hnext⟩ := refCycles_reset_counters m
  refine ⟨href, hnext, ?_⟩
  rw [matchIsNext_iff_toNat, href, hnext, threshold_reached_iff]

/-! ## The units of a tick in their order (R112, R114, R115) -/

theorem updEnvOf_iff (s : State) : updEnvOf s = true ↔ (s.divEnv.toNat + 1) % 4 = 0 := by
  rw [updEnvOf, stepDividers_divEnv, beq_iff_eq, ← BitVec.toNat_inj, BitVec.toNat_ofNat]
  simp

theorem applyModOf_iff (s : State) : applyModOf s = true ↔ (s.divMod.toNat + 1) % 800 = 0 := by
  rw [applyModOf, stepDividers_divMod, beq_iff_eq, ← BitVec.toNat_inj, BitVec.toNat_ofNat,
    Nat.mod_eq_of_lt (by omega)]
  simp

/-- Four voices that each give a sample give the mixer's output (R180). -/
theorem runEngine_of_samples {t : List Host.Cell} {updEnv applyMod : Bool} {vs : Voices}
    {x : VoiceId → Voice} {n : VoiceId → Int}
    (h : ∀ v, voiceSample t updEnv applyMod (vs.get v) = .sample (x v) (n v)) :
    runEngine t updEnv applyMod vs =
      .output ⟨x .v0, x .v1, x .v2, x .v3⟩ (mix (n .v0) (n .v1) (n .v2) (n .v3)) := by
  have h0 := h .v0
  have h1 := h .v1
  have h2 := h .v2
  have h3 := h .v3
  simp only [Voices.get] at h0 h1 h2 h3
  simp only [runEngine, h0, h1, h2, h3]

/-- The first voice that faults decides (R215). -/
theorem runEngine_of_first_fault {t : List Host.Cell} {updEnv applyMod : Bool} {vs : Voices}
    {v : VoiceId} {c : Cause} (hv : voiceSample t updEnv applyMod (vs.get v) = .fault c)
    (hbefore : ∀ u, (bitsOfVoice u).toNat < (bitsOfVoice v).toNat →
      ∃ x n, voiceSample t updEnv applyMod (vs.get u) = .sample x n) :
    runEngine t updEnv applyMod vs = .fault c v := by
  unfold runEngine
  cases v with
  | v0 => simp only [show voiceSample t updEnv applyMod vs.v0 = _ from hv]
  | v1 =>
    obtain ⟨x0, n0, h0⟩ := hbefore .v0 (by decide)
    simp only [Voices.get] at hv h0
    simp only [h0, hv]
  | v2 =>
    obtain ⟨x0, n0, h0⟩ := hbefore .v0 (by decide)
    obtain ⟨x1, n1, h1⟩ := hbefore .v1 (by decide)
    simp only [Voices.get] at hv h0 h1
    simp only [h0, h1, hv]
  | v3 =>
    obtain ⟨x0, n0, h0⟩ := hbefore .v0 (by decide)
    obtain ⟨x1, n1, h1⟩ := hbefore .v1 (by decide)
    obtain ⟨x2, n2, h2⟩ := hbefore .v2 (by decide)
    simp only [Voices.get] at hv h0 h1 h2
    simp only [h0, h1, h2, hv]

/-- A tick of a running block whose voices give an output. -/
theorem tick_of_output {s : State} {vs : Voices} {out : Byte} (hf : s.faulted = false)
    (h : runEngine s.tables (updEnvOf s) (applyModOf s) s.voices = .output vs out) :
    tick s = beatTick { stepDividers { s with tbPend := false } with voices := vs, out := out } := by
  rcases tick_cases s with ⟨hf', _⟩ | ⟨_, c, v, hr, _⟩ | ⟨_, vs', out', hr, ht⟩
  · simp [hf] at hf'
  · cases h.symm.trans hr
  · cases h.symm.trans hr
    exact ht

/-- A tick of a running block in which a voice faults. -/
theorem tick_of_fault {s : State} {c : Cause} {v : VoiceId} (hf : s.faulted = false)
    (h : runEngine s.tables (updEnvOf s) (applyModOf s) s.voices = .fault c v) :
    tick s = raiseFault c v .tick { s with tbPend := false } := by
  rcases tick_cases s with ⟨hf', _⟩ | ⟨_, c', v', hr, ht⟩ | ⟨_, vs, out, hr, _⟩
  · simp [hf] at hf'
  · cases h.symm.trans hr
    exact ht
  · cases h.symm.trans hr

theorem eq_updEnvOf {s : State} {updEnv : Bool} (h : updEnv = true ↔ (s.divEnv.toNat + 1) % 4 = 0) :
    updEnv = updEnvOf s := Bool.eq_iff_iff.2 (h.trans (updEnvOf_iff s).symm)

theorem eq_applyModOf {s : State} {applyMod : Bool}
    (h : applyMod = true ↔ (s.divMod.toNat + 1) % 800 = 0) : applyMod = applyModOf s :=
  Bool.eq_iff_iff.2 (h.trans (applyModOf_iff s).symm)

/-- Settles O28: four samples give the engine's output, and the tick writes it. -/
theorem tickRunsTheUnitsInOrder : Obligations.TickRunsTheUnitsInOrder := by
  unfold Obligations.TickRunsTheUnitsInOrder
  intro s x n updEnv applyMod hf henv hmod hsample
  rw [eq_updEnvOf henv, eq_applyModOf hmod] at hsample
  have htick := tick_of_output hf (runEngine_of_samples hsample)
  refine ⟨_, ?_, ?_, ?_, rfl, rfl, rfl, htick⟩
  · simp
  · simp only [stepDividers_divMod, BitVec.toNat_ofNat]
    exact Nat.mod_eq_of_lt (by omega)
  · intro v
    cases v <;> rfl

/-- Settles O29: the first fault is the engine's, and the tick latches it. -/
theorem tickReportsTheFirstFaultingVoice : Obligations.TickReportsTheFirstFaultingVoice := by
  unfold Obligations.TickReportsTheFirstFaultingVoice
  intro s v c updEnv applyMod hf henv hmod hfault hbefore
  rw [eq_updEnvOf henv, eq_applyModOf hmod] at hfault
  simp only [eq_updEnvOf henv, eq_applyModOf hmod] at hbefore
  refine ⟨_, tick_of_fault hf (runEngine_of_first_fault hfault hbefore), ?_⟩
  simp only [raiseFault_status, statusFaulted_faultStatus, statusCause_faultStatus,
    statusVoice_faultStatus, statusTick_faultStatus, true_and]
  exact ⟨rfl, rfl⟩

/-! ## Which steps run a tick (R114, R116, R117) -/

/-- The registers that only a reference cycle, a tick or a reset writes: the timebase, the dividers and
`OUT`. -/
def timingRegisters (s : State) : (Word16 × Word16 × Bool) × BitVec 2 × BitVec 10 × Byte :=
  ((s.tbRef, s.tbNext, s.tbPend), s.divEnv, s.divMod, s.out)

theorem timingRegisters_eq_iff (s t : State) : timingRegisters t = timingRegisters s ↔
    (t.tbRef = s.tbRef ∧ t.tbNext = s.tbNext ∧ t.tbPend = s.tbPend) ∧
    t.divEnv = s.divEnv ∧ t.divMod = s.divMod ∧ t.out = s.out := by
  simp only [timingRegisters, Prod.mk.injEq]

@[simp] theorem timingRegisters_popTurn (s : State) :
    timingRegisters (popTurn s) = timingRegisters s := by rw [popTurn_frame]; rfl

@[simp] theorem timingRegisters_commandBody (i : Instr) (s : State) :
    timingRegisters (commandBody i s) = timingRegisters s := by rw [commandBody_frame]; rfl

@[simp] theorem timingRegisters_hostRead (off : Nat) (width : Width) (s : State) :
    timingRegisters (hostRead off width s) = timingRegisters s := by rw [hostRead_frame]; rfl

@[simp] theorem popTurn_tbNext (s : State) : (popTurn s).tbNext = s.tbNext := by rw [popTurn_frame]
@[simp] theorem popTurn_tbPend (s : State) : (popTurn s).tbPend = s.tbPend := by rw [popTurn_frame]

@[simp] theorem tickIsDue_popTurn (s : State) : tickIsDue (popTurn s) = tickIsDue s := by
  rw [popTurn_frame]; rfl

theorem tickIsDue_iff (s : State) : tickIsDue s = true ↔ s.tbPend = true ∧ matchIsNext s = true :=
  Bool.and_eq_true_iff

/-- A reference cycle's turn: a due tick runs and the cycle waits, else the cycle runs. -/
theorem step_refCycle {s : State} (h : nextTurn s = .refCycle) : step s = .next
    (if tickIsDue s then { tick (popTurn s) with schedule := .refCycle :: (popTurn s).schedule }
     else refCycle (popTurn s)) := by
  rw [step_eq, h, turnBody, refCycleTurn, tickIsDue_popTurn]

theorem step_tick {s : State} (h : nextTurn s = .tick) :
    step s = .next (if s.tbPend then tick (popTurn s) else popTurn s) := by
  rw [step_eq, h, turnBody, tickTurn, popTurn_tbPend]

/-- The step that `runsTick` names runs the tick. -/
theorem step_of_runsTick {s : State} (h : runsTick s) :
    ∃ rest, step s = .next { tick (popTurn s) with schedule := rest } := by
  obtain ⟨hpend, hn | ⟨hn, hmatch⟩⟩ := h
  · exact ⟨(tick (popTurn s)).schedule, by rw [step_tick hn, if_pos hpend]⟩
  · exact ⟨_, by rw [step_refCycle hn, if_pos ((tickIsDue_iff s).2 ⟨hpend, hmatch⟩)]⟩

/-- Every other step but reset is a reference cycle that is not due to wait, or leaves the timebase, the
dividers and `OUT`. -/
theorem step_of_not_runsTick {s t : State} (hstep : step s = .next t) (h : ¬ runsTick s)
    (hreset : nextTurn s ≠ .reset) :
    (nextTurn s = .refCycle ∧ tickIsDue s = false ∧ t = refCycle (popTurn s)) ∨
    (nextTurn s ≠ .refCycle ∧ timingRegisters t = timingRegisters s) := by
  rcases step_cases hstep with ⟨hn, _⟩ | ⟨hn, _⟩ | ⟨w, hn, hnext⟩ | ⟨_, _, _, hn, _, rfl⟩ |
    ⟨off, width, hn, rfl⟩ | ⟨hn, _⟩
  · have hdue : tickIsDue s = false := by
      rw [← Bool.not_eq_true, tickIsDue_iff]
      exact fun ⟨hpend, hmatch⟩ => h ⟨hpend, .inr ⟨hn, hmatch⟩⟩
    rw [step_refCycle hn, hdue] at hstep
    cases hstep
    exact .inl ⟨hn, hdue, rfl⟩
  · have hpend : ¬ s.tbPend = true := fun hpend => h ⟨hpend, .inl hn⟩
    rw [step_tick hn, if_neg hpend] at hstep
    cases hstep
    exact .inr ⟨by simp [hn], timingRegisters_popTurn s⟩
  · rw [issues] at hn
    refine .inr ⟨by simp [hn], ?_⟩
    rw [← timingRegisters_popTurn s]
    rcases issueCommand_next hnext with ⟨_, rfl⟩ | ⟨_, _, rfl⟩ | ⟨_, i, _, rfl⟩
    · rfl
    · rfl
    · exact timingRegisters_commandBody i _
  · exact .inr ⟨by simp [hn], timingRegisters_popTurn s⟩
  · exact .inr ⟨by simp [hn], by rw [timingRegisters_hostRead, timingRegisters_popTurn]⟩
  · exact absurd hn hreset

/-- A tick consumes the pending bit and leaves the threshold. -/
theorem tick_tbPend (s : State) : (tick s).tbPend = false := by rw [tick_frame]

theorem tick_tbNext (s : State) : (tick s).tbNext = s.tbNext := by rw [tick_frame]

/-- A reference cycle leaves the dividers and `OUT`. -/
theorem refCycle_dividers_out (s : State) :
    (refCycle s).divEnv = s.divEnv ∧ (refCycle s).divMod = s.divMod ∧ (refCycle s).out = s.out := by
  rw [refCycle_frame]
  exact ⟨rfl, rfl, rfl⟩

theorem popTurn_dividers_out (s : State) :
    (popTurn s).divEnv = s.divEnv ∧ (popTurn s).divMod = s.divMod ∧ (popTurn s).out = s.out :=
  ((timingRegisters_eq_iff s _).1 (timingRegisters_popTurn s)).2

/-- Settles O57, by the two kinds of step, `step_of_runsTick` and `step_of_not_runsTick`. -/
theorem onlyTicksStepTheEngine : Obligations.OnlyTicksStepTheEngine := by
  unfold Obligations.OnlyTicksStepTheEngine
  refine fun s t hstep => ⟨fun h => ?_, fun h hreset => ?_⟩
  · obtain ⟨rest, hrest⟩ := step_of_runsTick h
    cases hstep.symm.trans hrest
    exact ⟨tick_tbPend _, rest, rfl⟩
  · rcases step_of_not_runsTick hstep h hreset with ⟨_, _, rfl⟩ | ⟨_, hsame⟩
    · simpa only [popTurn_dividers_out] using refCycle_dividers_out (popTurn s)
    · exact ((timingRegisters_eq_iff s t).1 hsame).2

/-- A reference cycle that is not due to wait raises no second tick: a match finds none pending. -/
theorem refCycle_of_not_due {s : State} (h : tickIsDue s = false)
    (hnext : (refCycle s).tbNext ≠ s.tbNext) : s.tbPend = false ∧ (refCycle s).tbPend = true := by
  cases hmatch : matchIsNext s with
  | true =>
    rw [tickIsDue, hmatch, Bool.and_true] at h
    exact ⟨h, by rw [refCycle_of_match hmatch]⟩
  | false =>
    rw [refCycle_of_no_match hmatch] at hnext
    exact absurd rfl hnext

/-- Settles O27: a step runs a tick, or is a reference cycle that is not due, or leaves the timebase. -/
theorem noTickIsLostOrRunTwice : Obligations.NoTickIsLostOrRunTwice := by
  unfold Obligations.NoTickIsLostOrRunTwice
  refine ⟨fun s t hstep hreset => ?_, fun s => step_refCycle, fun s => step_tick⟩
  by_cases hruns : runsTick s
  · obtain ⟨rest, hrest⟩ := step_of_runsTick hruns
    obtain ⟨hpend, hturn⟩ := hruns
    cases hstep.symm.trans hrest
    exact ⟨fun hne => absurd ((tick_tbNext _).trans (popTurn_tbNext s)) hne,
      fun _ => ⟨hpend, tick_tbPend _⟩, fun _ _ => hturn.imp_right And.left⟩
  · rcases step_of_not_runsTick hstep hruns hreset with ⟨hturn, hdue, rfl⟩ | ⟨_, hsame⟩
    · have hdiv := (refCycle_dividers_out (popTurn s)).2.1.trans (popTurn_dividers_out s).2.1
      refine ⟨fun hne => ?_, fun hne => absurd hdiv hne, fun _ _ => .inr hturn⟩
      rw [← popTurn_tbNext s] at hne
      rw [← popTurn_tbPend s]
      exact refCycle_of_not_due ((tickIsDue_popTurn s).trans hdue) hne
    · obtain ⟨⟨_, hnext, hpend⟩, _, hmod, _⟩ := (timingRegisters_eq_iff s t).1 hsame
      exact ⟨fun hne => absurd hnext hne, fun hne => absurd hmod hne,
        fun hs ht => absurd (hs.symm.trans (hpend.symm.trans ht)) (by decide)⟩

end Sys2Proof.Machine
end

section
/-! PROOFS. Weak fairness of the Timebase (40_timebase.md rule R119): on the run from any state, reference
cycles and ticks recur. -/

namespace Sys2Proof.Machine

/-! ## A run as an iterated function (R120) -/

/-- The state after the next step. -/
def nextState (s : State) : State := turnBody (nextTurn s) (popTurn s)

theorem step_nextState (s : State) : step s = .next (nextState s) := step_eq s

theorem core_run_eq (n : Nat) (s : State) :
    Host.Core.run Sys2Proof.core n s = .next (nextState^[n] s) := by
  induction n generalizing s with
  | zero => rfl
  | succ n ih =>
    have hstep : Sys2Proof.core.step s = .next (nextState s) := step_nextState s
    simp only [Host.Core.run, hstep]
    exact ih (nextState s)

/-- What comes from every state comes again after any number of steps. -/
theorem recurs_of_reached {P : State → Prop} (h : ∀ s, ∃ k, P (nextState^[k] s)) (s : State) (n : Nat) :
    ∃ m u, n ≤ m ∧ Host.Core.run Sys2Proof.core m s = .next u ∧ P u := by
  obtain ⟨k, hk⟩ := h (nextState^[n] s)
  rw [← Function.iterate_add_apply] at hk
  exact ⟨k + n, _, Nat.le_add_left n k, core_run_eq _ _, hk⟩

/-! ## Reference cycles recur -/

theorem nextState_schedule {s : State} (h : nextTurn s ≠ .refCycle) :
    (nextState s).schedule = (popTurn s).schedule := step_schedule (step_nextState s) h

theorem nextTurn_and_rest_of_cons {s : State} {turn : Turn} {rest : List Turn}
    (h : s.schedule = turn :: rest) : nextTurn s = turn ∧ (popTurn s).schedule = rest :=
  ⟨nextTurn_cons s turn rest h, by rw [popTurn_cons s turn rest h]⟩

/-- A reference cycle that stands in the schedule comes, by induction on the schedule. -/
theorem refCycle_reached_of_scheduled {s : State} (h : .refCycle ∈ s.schedule) :
    ∃ k, nextTurn (nextState^[k] s) = .refCycle := by
  induction hl : s.schedule generalizing s with
  | nil => simp [hl] at h
  | cons turn rest ih =>
    obtain ⟨hturn, hrest⟩ := nextTurn_and_rest_of_cons hl
    by_cases hn : nextTurn s = .refCycle
    · exact ⟨0, hn⟩
    · have hmem : .refCycle ∈ (nextState s).schedule := by
        rw [nextState_schedule hn, hrest]
        rw [hl] at h
        exact (List.mem_cons.1 h).resolve_left fun e => hn (hturn.trans e.symm)
      obtain ⟨k, hk⟩ := ih hmem ((nextState_schedule hn).trans hrest)
      exact ⟨k + 1, hk⟩

/-- A reference cycle comes from every state: the schedule runs out, and a free stretch ends in one. -/
theorem refCycle_reached (s : State) : ∃ k, nextTurn (nextState^[k] s) = .refCycle := by
  induction hl : s.schedule generalizing s with
  | nil =>
    by_cases hn : nextTurn s = .refCycle
    · exact ⟨0, hn⟩
    · have hfree : .refCycle ∈ nextTurn s :: (popTurn s).schedule := by
        rw [← nextTurn_nil s hl, freeTurns]
        exact List.mem_append_right _ (List.mem_singleton_self _)
      have hmem : .refCycle ∈ (nextState s).schedule := by
        rw [nextState_schedule hn]
        exact (List.mem_cons.1 hfree).resolve_left (Ne.symm hn)
      obtain ⟨k, hk⟩ := refCycle_reached_of_scheduled hmem
      exact ⟨k + 1, hk⟩
  | cons turn rest ih =>
    by_cases hn : nextTurn s = .refCycle
    · exact ⟨0, hn⟩
    · obtain ⟨k, hk⟩ := ih (nextState s)
        ((nextState_schedule hn).trans (nextTurn_and_rest_of_cons hl).2)
      exact ⟨k + 1, hk⟩

/-- Settles O55: a reference cycle comes from every state, so it recurs. -/
theorem referenceCyclesRecur : Obligations.ReferenceCyclesRecur := by
  unfold Obligations.ReferenceCyclesRecur
  exact recurs_of_reached refCycle_reached

/-! ## Ticks recur -/

/-- The next step runs a tick, or the `RESET` input is asserted. -/
def ticksOrResets (s : State) : Prop := runsTick s ∨ nextTurn s = .reset

/-- A bound on the reference cycles before a tick must run: those to the next match, and a whole turn of
the counter more while no tick is pending. -/
def cyclesToTick (s : State) : Nat :=
  (if s.tbPend then 0 else 65536) + (s.tbNext - s.tbRef - 1).toNat

theorem cyclesToTick_congr {s t : State} (h : timingRegisters t = timingRegisters s) :
    cyclesToTick t = cyclesToTick s := by
  obtain ⟨⟨href, hnext, hpend⟩, _⟩ := (timingRegisters_eq_iff s t).1 h
  rw [cyclesToTick, href, hnext, hpend, cyclesToTick]

/-- A reference cycle that is not due to wait brings the tick nearer: a match makes it pending, and any
other cycle comes nearer to the match. -/
theorem cyclesToTick_refCycle {s : State} (h : tickIsDue s = false) :
    cyclesToTick (refCycle s) < cyclesToTick s := by
  cases hmatch : matchIsNext s with
  | true =>
    have hpend : s.tbPend = false := by simpa [tickIsDue, hmatch] using h
    rw [refCycle_of_match hmatch]
    simp only [cyclesToTick, hpend, if_true]
    rw [if_neg (by decide)]
    omega
  | false =>
    have hne := (matchIsNext_eq_false_iff s).1 hmatch
    rw [refCycle_of_no_match hmatch]
    simp only [cyclesToTick]
    refine Nat.add_lt_add_left ?_ _
    bv_omega

/-- A step that neither runs a tick nor resets does not put the tick off, and a reference cycle brings it
nearer. -/
theorem cyclesToTick_nextState {s : State} (h : ¬ ticksOrResets s) :
    cyclesToTick (nextState s) ≤ cyclesToTick s ∧
    (nextTurn s = .refCycle → cyclesToTick (nextState s) < cyclesToTick s) := by
  obtain ⟨hruns, hreset⟩ := not_or.1 h
  have hpop := cyclesToTick_congr (timingRegisters_popTurn s)
  rcases step_of_not_runsTick (step_nextState s) hruns hreset with ⟨_, hdue, e⟩ | ⟨hn, hsame⟩
  · have hlt : cyclesToTick (nextState s) < cyclesToTick s := by
      rw [e, ← hpop]
      exact cyclesToTick_refCycle ((tickIsDue_popTurn s).trans hdue)
    exact ⟨hlt.le, fun _ => hlt⟩
  · exact ⟨(cyclesToTick_congr hsame).le, fun hn' => absurd hn' hn⟩

/-- Along a run the tick is not put off, until a step runs it or resets. -/
theorem cyclesToTick_iterate (k : Nat) (s : State) :
    (∃ j, ticksOrResets (nextState^[j] s)) ∨ cyclesToTick (nextState^[k] s) ≤ cyclesToTick s := by
  induction k with
  | zero => exact .inr le_rfl
  | succ k ih =>
    rcases ih with hdone | hle
    · exact .inl hdone
    · by_cases h : ticksOrResets (nextState^[k] s)
      · exact .inl ⟨k, h⟩
      · rw [Function.iterate_succ_apply']
        exact .inr ((cyclesToTick_nextState h).1.trans hle)

/-- A tick or a reset comes from every state, by induction on `cyclesToTick`: the next reference cycle
brings the tick nearer. -/
theorem tick_or_reset_reached (s : State) : ∃ k, ticksOrResets (nextState^[k] s) := by
  induction hc : cyclesToTick s using Nat.strong_induction_on generalizing s with
  | _ c ih =>
    obtain ⟨k, hk⟩ := refCycle_reached s
    rcases cyclesToTick_iterate k s with hdone | hle
    · exact hdone
    · by_cases h : ticksOrResets (nextState^[k] s)
      · exact ⟨k, h⟩
      · have hlt := ((cyclesToTick_nextState h).2 hk).trans_le (hle.trans_eq hc)
        obtain ⟨j, hj⟩ := ih _ hlt _ rfl
        exact ⟨j + (k + 1), by rwa [Function.iterate_add_apply, Function.iterate_succ_apply']⟩

/-- Settles O56: a tick or a reset comes from every state, so it recurs. -/
theorem ticksRecur : Obligations.TicksRecur := by
  unfold Obligations.TicksRecur
  exact recurs_of_reached tick_or_reset_reached

end Sys2Proof.Machine
end

section
/-! PROOFS. The invariant of the block, part by part: every operation of a step keeps it (R30, R32, R34, R111,
R134, R194, R211), so every run does. -/

namespace Sys2Proof.Machine

/-! ## The voices (R30, R32, R134) -/

theorem reset_voiceInv : voiceInv Voice.reset := ⟨reset_sentinelInv, ⟨rfl, by decide⟩, rfl⟩

/-- The envelope step leaves the valid bits, and reads a table only where it is set. -/
theorem envelopeStep_tablesSetInv {t : List Host.Cell} {x y : Voice} (h : envelopeStep t x = some y)
    (hx : tablesSetInv x) : tablesSetInv y := by
  obtain ⟨hsame, hamp⟩ := hx
  rcases envelopeStep_some h with ⟨_, rfl⟩ | ⟨_, hvalid, rfl⟩
  · exact ⟨hsame, fun hne => absurd rfl hne⟩
  · exact ⟨hsame, fun _ => hsame.symm.trans hvalid⟩

theorem envelopeStep_baseInv {t : List Host.Cell} {x y : Voice} (h : envelopeStep t x = some y)
    (hx : baseInv x) : baseInv y := by
  rcases envelopeStep_some h with ⟨_, rfl⟩ | ⟨_, _, rfl⟩
  · exact hx
  · exact hx

theorem voiceSample_voiceInv (t : List Host.Cell) (updEnv applyMod : Bool) (x y : Voice) (n : Int)
    (h : voiceSample t updEnv applyMod x = .sample y n) (hx : voiceInv x) : voiceInv y := by
  obtain ⟨hsentinel, htables, hbase⟩ := hx
  have hsentinel' := voiceSample_sentinelInv t updEnv applyMod x y n h hsentinel
  obtain ⟨x1, ⟨_, he⟩ | ⟨_, rfl⟩, rfl, _⟩ := voiceSample_sample h
  · have htables1 : tablesSetInv x1 := envelopeStep_tablesSetInv he htables
    have hbase1 : baseInv x1 := envelopeStep_baseInv he hbase
    exact ⟨hsentinel', htables1, hbase1⟩
  · exact ⟨hsentinel', htables, hbase⟩

/-- `SETUP` sets both valid bits and writes `WPI` to `BASE`; a trigger leaves the bits and writes both
pitch fields or neither. -/
theorem commandBody_voiceInv (i : Instr) (s : State) (v : VoiceId) (h : voiceInv (s.voice v)) :
    voiceInv ((commandBody i s).voice v) := by
  obtain ⟨hsentinel, htables, hbase⟩ := h
  refine ⟨commandBody_sentinelInv i s v hsentinel, ?_⟩
  rcases commandBody_voice_cases i s v with e | ⟨_, _, _, _, _, _, e⟩ | ⟨_, _, e⟩ | ⟨_, e⟩ <;> rw [e]
  · exact ⟨htables, hbase⟩
  · exact ⟨⟨rfl, fun _ => rfl⟩, rfl⟩
  · exact ⟨htables, rfl⟩
  · exact ⟨htables, hbase⟩

/-- A voice whose valid bits are set together cannot reach `UNSET_WAVE_TABLE` (R134). -/
theorem voiceSample_fault_cause {t : List Host.Cell} {updEnv applyMod : Bool} {x : Voice} {c : Cause}
    (h : voiceSample t updEnv applyMod x = .fault c) (hx : tablesSetInv x) : c = .unsetEnvTable := by
  rcases voiceSample_fault h with ⟨hc, _⟩ | ⟨_, x1, hx1, hsample⟩
  · exact hc
  · have htables : tablesSetInv x1 := by
      rcases hx1 with ⟨_, he⟩ | ⟨_, rfl⟩
      · exact envelopeStep_tablesSetInv he hx
      · exact hx
    obtain ⟨hamp, hunset⟩ := sampleStep_none hsample
    exact absurd ((htables.2 hamp).symm.trans hunset) (by decide)

/-! ## The beat clock (R194) -/

/-- The beat clock's step: idle, a rollover, or a count. -/
theorem beatTick_cases (s : State) :
    (s.bcStart = 0 ∧ beatTick s = s) ∨
    (s.bcStart ≠ 0 ∧ beatTick s = { s with bcCount := s.bcStart, bcLatch := true }) ∨
    (s.bcStart ≠ 0 ∧ s.bcCount - 1 ≠ 0 ∧ beatTick s = { s with bcCount := s.bcCount - 1 }) := by
  unfold beatTick
  split
  · next hidle => exact .inl ⟨hidle, rfl⟩
  · next hrun =>
    split
    · exact .inr (.inl ⟨hrun, rfl⟩)
    · next hcount => exact .inr (.inr ⟨hrun, hcount, rfl⟩)

theorem beatTick_beatInv {s : State} (h : beatInv s) : beatInv (beatTick s) := by
  rcases beatTick_cases s with ⟨_, e⟩ | ⟨hrun, e⟩ | ⟨hrun, hcount, e⟩ <;> rw [e]
  · exact h
  · exact .inr ⟨Nat.pos_of_ne_zero fun h0 => hrun (BitVec.eq_of_toNat_eq h0), le_rfl⟩
  · rcases h with ⟨hidle, _⟩ | ⟨hpos, hle⟩
    · exact absurd hidle hrun
    · refine .inr ⟨Nat.pos_of_ne_zero fun h0 => hcount (BitVec.eq_of_toNat_eq h0), ?_⟩
      have hsub : (s.bcCount - 1).toNat ≤ s.bcCount.toNat := by bv_omega
      exact hsub.trans hle

/-- A nonzero tempo counts down from at least 1 (R192). -/
theorem beatStart_pos {bpm : Byte} (h : bpm ≠ 0) : 1 ≤ (beatStart bpm).toNat := by
  have hpos : 0 < bpm.toNat := Nat.pos_of_ne_zero fun h0 => h (BitVec.eq_of_toNat_eq h0)
  have hquot : 0 < 480000 / (4 * bpm.toNat) := Nat.div_pos (by omega) (by omega)
  have hle : 480000 / (4 * bpm.toNat) ≤ 480000 := Nat.div_le_self _ _
  have hstart : (beatStart bpm).toNat = 480000 / (4 * bpm.toNat) % 2 ^ 32 := BitVec.toNat_ofNat _ _
  omega

theorem commandBody_beatInv (i : Instr) {s : State} (h : beatInv s) : beatInv (commandBody i s) := by
  cases i with
  | setBpm bpm =>
    by_cases hb : bpm = 0
    · rw [hb, commandBody_setBpm_zero]
      exact h
    · rw [commandBody_setBpm_nonzero hb]
      exact .inr ⟨beatStart_pos hb, le_rfl⟩
  | beatComplete => exact h.imp_left fun ⟨hstart, hcount, _⟩ => ⟨hstart, hcount, rfl⟩
  | triggerHz v freq =>
    by_cases hf : freq = 0
    · rw [hf, commandBody_triggerHz_zero]
      exact h
    · rw [commandBody_triggerHz_nonzero v hf]
      exact h
  | setup v wref winc eref einc mdep => exact h
  | triggerMidi v note => exact h
  | retrigger v => exact h
  | getAmp v => exact h

/-! ## The dividers and the timebase (R34, R111, R112) -/

theorem reset_dividerInv : dividerInv State.reset := by unfold dividerInv; decide

theorem reset_timebaseInv : timebaseInv State.reset := by unfold timebaseInv; decide

theorem stepDividers_dividerInv {s : State} (h : dividerInv s) : dividerInv (stepDividers s) := by
  obtain ⟨hlt, hmod⟩ := h
  simp only [dividerInv, stepDividers_divEnv, stepDividers_divMod, BitVec.toNat_ofNat]
  omega

theorem refCycle_timebaseInv {s : State} (h : timebaseInv s) : timebaseInv (refCycle s) := by
  obtain ⟨hpos, hle⟩ := h
  cases hmatch : matchIsNext s with
  | true =>
    have heq := (matchIsNext_iff s).1 hmatch
    rw [refCycle_of_match hmatch, timebaseInv, ← heq]
    simp only [add_sub_cancel_left]
    decide
  | false =>
    have hne := (matchIsNext_eq_false_iff s).1 hmatch
    rw [refCycle_of_no_match hmatch, timebaseInv]
    simp only
    bv_omega

/-! ## The fault record (R211, R212) -/

theorem faultStatus_unsetEnvTable (v : VoiceId) :
    faultStatus .unsetEnvTable v true = 0x0045 + (bitsOfVoice v).setWidth 16 * 16 := by
  cases v <;> decide

theorem faultStatus_bpmZero : faultStatus .bpmZero .v0 false = 0x0009 := by decide

theorem encode_setBpm_zero : encode (.setBpm 0) = 0xC000000000000000 := by decide

theorem faultStatus_freqZero (v : VoiceId) :
    faultStatus .freqZero v false = 0x000B + (bitsOfVoice v).setWidth 16 * 16 := by
  cases v <;> decide

theorem illegalCommand_faultRecordInv {w : Word64} {why : IllegalWord} (h : decode w = .illegal why)
    (s : State) : faultRecordInv (raiseFault .illegalCommand .v0 (.command w) s) :=
  .inr (.inl ⟨faultStatus_illegalCommand, why, h⟩)

theorem commandBody_faultRecordInv (i : Instr) {s : State} (h : faultRecordInv s) :
    faultRecordInv (commandBody i s) := by
  cases i with
  | triggerHz v freq =>
    by_cases hf : freq = 0
    · rw [hf, commandBody_triggerHz_zero]
      exact .inr (.inr (.inr (.inr ⟨v, faultStatus_freqZero v, decode_encode (i := .triggerHz v 0) rfl⟩)))
    · rw [commandBody_triggerHz_nonzero v hf]
      exact h
  | setBpm bpm =>
    by_cases hb : bpm = 0
    · rw [hb, commandBody_setBpm_zero]
      exact .inr (.inr (.inr (.inl ⟨faultStatus_bpmZero, encode_setBpm_zero⟩)))
    · rw [commandBody_setBpm_nonzero hb]
      exact h
  | setup v wref winc eref einc mdep => exact h
  | triggerMidi v note => exact h
  | retrigger v => exact h
  | getAmp v => exact h
  | beatComplete => exact h

/-- A tick's fault is `UNSET_ENV_TABLE`, in a block whose voices have their valid bits set together. -/
theorem tick_faultRecordInv {s : State} (h : faultRecordInv s) (hvoices : ∀ v, tablesSetInv (s.voice v)) :
    faultRecordInv (tick s) := by
  rcases tick_cases s with ⟨_, ht⟩ | ⟨_, c, v, hr, ht⟩ | ⟨_, vs, out, _, ht⟩ <;> rw [ht]
  · exact h
  · rw [voiceSample_fault_cause (runEngine_fault hr) (hvoices v)]
    exact .inr (.inr (.inl ⟨v, faultStatus_unsetEnvTable v, rfl⟩))
  · rw [beatTick_frame]
    exact h

/-! ## The operations of a step keep the invariant -/

theorem tick_beatInv {s : State} (h : beatInv s) : beatInv (tick s) := by
  rcases tick_cases s with ⟨_, ht⟩ | ⟨_, _, _, _, ht⟩ | ⟨_, _, _, _, ht⟩ <;> rw [ht]
  · exact h
  · exact h
  · exact beatTick_beatInv h

theorem tick_dividerInv {s : State} (h : dividerInv s) : dividerInv (tick s) := by
  rcases tick_cases s with ⟨_, ht⟩ | ⟨_, _, _, _, ht⟩ | ⟨_, _, _, _, ht⟩ <;> rw [ht]
  · exact h
  · exact h
  · rw [beatTick_frame]
    exact stepDividers_dividerInv h

theorem BlockInv.tablesSet {s : State} (h : BlockInv s) (v : VoiceId) : tablesSetInv (s.voice v) :=
  (h.voices v).2.1

/-- The invariant does not speak of the model's own fields. -/
theorem BlockInv.with_bookkeeping {s : State} (h : BlockInv s) (schedule : List Turn) (draws : Nat)
    (readData : Word64) :
    BlockInv { s with schedule := schedule, draws := draws, readData := readData } :=
  ⟨h.voices, h.beat, h.dividers, h.timebase, h.fault, h.tables⟩

theorem popTurn_blockInv {s : State} (h : BlockInv s) : BlockInv (popTurn s) := by
  rw [popTurn_frame]
  exact h.with_bookkeeping _ _ _

theorem tick_blockInv {s : State} (h : BlockInv s) : BlockInv (tick s) where
  voices v := tick_keeps_voice voiceSample_voiceInv s v (h.voices v)
  beat := tick_beatInv h.beat
  dividers := tick_dividerInv h.dividers
  timebase := by rw [tick_frame]; exact h.timebase
  fault := tick_faultRecordInv h.fault h.tablesSet
  tables := by rw [tick_frame]; exact h.tables

theorem refCycle_blockInv {s : State} (h : BlockInv s) : BlockInv (refCycle s) where
  voices v := by rw [refCycle_voice]; exact h.voices v
  beat := by rw [refCycle_frame]; exact h.beat
  dividers := by rw [refCycle_frame]; exact h.dividers
  timebase := refCycle_timebaseInv h.timebase
  fault := by rw [refCycle_frame]; exact h.fault
  tables := by rw [refCycle_frame]; exact h.tables

theorem commandBody_blockInv {s : State} (h : BlockInv s) (i : Instr) : BlockInv (commandBody i s) where
  voices v := commandBody_voiceInv i s v (h.voices v)
  beat := commandBody_beatInv i h.beat
  dividers := by rw [commandBody_frame]; exact h.dividers
  timebase := by rw [commandBody_frame]; exact h.timebase
  fault := commandBody_faultRecordInv i h.fault
  tables := by rw [commandBody_frame]; exact h.tables

theorem illegalCommand_blockInv {s : State} (h : BlockInv s) {w : Word64} {why : IllegalWord}
    (hd : decode w = .illegal why) : BlockInv (raiseFault .illegalCommand .v0 (.command w) s) :=
  ⟨h.voices, h.beat, h.dividers, h.timebase, illegalCommand_faultRecordInv hd s, h.tables⟩

theorem hostRead_blockInv {s : State} (h : BlockInv s) (off : Nat) (width : Width) :
    BlockInv (hostRead off width s) := by
  rw [hostRead_frame]
  exact h.with_bookkeeping _ _ _

/-- A reset gives the invariant to any block with a canonical table store. -/
theorem resetAction_blockInv {s : State} (h : tablesWf s.tables = true) : BlockInv (resetAction s) where
  voices v := by rw [resetAction_voice]; exact reset_voiceInv
  beat := .inl ⟨rfl, rfl, rfl⟩
  dividers := reset_dividerInv
  timebase := reset_timebaseInv
  fault := .inl ⟨rfl, rfl⟩
  tables := resetAction_keeps_wf s h

/-! ## Every step and every run -/

theorem portBody_blockInv {s : State} (h : BlockInv s) (w : Word64) : BlockInv (portBody w s) := by
  unfold portBody
  split
  · exact h
  · split
    · next why hd => exact illegalCommand_blockInv h hd
    · next i _ => exact commandBody_blockInv h i

theorem turnBody_blockInv {s : State} (h : BlockInv s) (turn : Turn) : BlockInv (turnBody turn s) := by
  cases turn with
  | refCycle =>
    simp only [turnBody, refCycleTurn]
    split
    · exact (tick_blockInv h).with_bookkeeping _ _ _
    · exact refCycle_blockInv h
  | tick =>
    simp only [turnBody, tickTurn]
    split
    · exact tick_blockInv h
    · exact h
  | hostWrite off width data =>
    simp only [turnBody]
    split
    · exact portBody_blockInv h data
    · exact h
  | hostRead off width => exact hostRead_blockInv h off width
  | reset => exact resetAction_blockInv h.tables

theorem nextState_blockInv {s : State} (h : BlockInv s) : BlockInv (nextState s) :=
  turnBody_blockInv (popTurn_blockInv h) (nextTurn s)

/-- Settles O49: a run is `nextState` iterated, and `nextState` keeps the invariant. -/
theorem runsNeverStopAndKeepTheInvariant : Obligations.RunsNeverStopAndKeepTheInvariant := by
  unfold Obligations.RunsNeverStopAndKeepTheInvariant
  exact fun n s => ⟨_, core_run_eq n s,
    fun h => Function.Iterate.rec BlockInv h (fun _ => nextState_blockInv) n⟩

end Sys2Proof.Machine
end

section
/-! PROOFS. The voice of 41_voice.md: its commands (R150 to R154), its part of a tick (R130 to R135), and what
follows over runs of ticks and over steps (R134, R136 to R138). -/

namespace Sys2Proof.Machine

/-! ## The commands (R150 to R154) -/

/-- What a command that writes one voice and answers `RESP` leaves. -/
theorem respond_setVoice_writes (r : Word16) (v : VoiceId) (x : Voice) (s : State) :
    (respond r (setVoice v x s)).voice v = x ∧
    (∀ u, u ≠ v → (respond r (setVoice v x s)).voice u = s.voice u) ∧
    respond r (setVoice v x s) =
      { s with voices := (respond r (setVoice v x s)).voices, resp := r } :=
  ⟨voice_setVoice_same v x s, fun u => voice_setVoice_other v u x s, rfl⟩

/-- Settles O12: the command's body is one voice's write and the answer 0. -/
theorem setupWritesEveryTunable : Obligations.SetupWritesEveryTunable := by
  unfold Obligations.SetupWritesEveryTunable
  exact fun v _ _ _ _ _ s hf => ⟨_, exec_running _ s hf, respond_setVoice_writes 0 v _ s⟩

theorem pitchTable_getElem?_note (s : State) (note : BitVec 7) :
    s.pitchTable[note.toNat]? = some (pitchInc s note) := Vector.getElem?_eq_getElem note.isLt

/-- Settles O13: the entry is in the table's range, and the two default entries are evaluated. -/
theorem triggerMidiStartsTheNoteFromThePitchTable :
    Obligations.TriggerMidiStartsTheNoteFromThePitchTable := by
  unfold Obligations.TriggerMidiStartsTheNoteFromThePitchTable
  refine ⟨fun v note s hf => ?_, rfl, rfl⟩
  exact ⟨_, pitchInc s note, exec_running _ s hf, pitchTable_getElem?_note s note,
    respond_setVoice_writes 0 v _ s⟩

/-- Settles O14: the command's body is one voice's write and the answer 0. -/
theorem retriggerClearsTheEnvelopeAccumulator : Obligations.RetriggerClearsTheEnvelopeAccumulator := by
  unfold Obligations.RetriggerClearsTheEnvelopeAccumulator
  exact fun v s hf => ⟨_, exec_running _ s hf, respond_setVoice_writes 0 v _ s⟩

theorem hzInc_of_given {s : State} {freq x : Word16} (h : s.hzEntries.lookup freq = some x) :
    hzInc s freq = x := by rw [hzInc, h, Option.getD_some]

/-- The default increment never wraps (R153). -/
theorem hzInc_toNat_of_default {s : State} {freq : Word16} (h : s.hzEntries.lookup freq = none) :
    (hzInc s freq).toNat = 8000 / (256 * freq.toNat) := by
  have hle : 8000 / (256 * freq.toNat) ≤ 8000 := Nat.div_le_self _ _
  rw [hzInc, h, Option.getD_none, defaultHzToInc, BitVec.toNat_ofNat, Nat.mul_comm freq.toNat]
  exact Nat.mod_eq_of_lt (by simp only [Config.tickRate]; omega)

theorem encode_triggerHz_zero (v : VoiceId) :
    encode (.triggerHz v 0) = 0x8000000000000000 ||| (bitsOfVoice v).setWidth 64 <<< 59 := by
  cases v <;> decide

/-- Settles O15: a nonzero frequency starts the note, and 0 latches `FREQ_ZERO` with the command's word. -/
theorem triggerHzStartsTheNoteOrFaultsOnZero : Obligations.TriggerHzStartsTheNoteOrFaultsOnZero := by
  unfold Obligations.TriggerHzStartsTheNoteOrFaultsOnZero
  intro v freq s hf
  rw [exec_running _ s hf]
  refine ⟨fun hne => ?_, fun hz => ?_⟩
  · rw [commandBody_triggerHz_nonzero v hne]
    exact ⟨_, hzInc s freq, rfl, fun _ => hzInc_of_given, hzInc_toNat_of_default,
      respond_setVoice_writes 0 v _ s⟩
  · rw [hz, commandBody_triggerHz_zero, raiseFault, operationTick, operationWord, faultStatus_freqZero,
      encode_triggerHz_zero]

/-- Settles O16: the command's body answers the amplitude, widened, and writes nothing else. -/
theorem getAmpAnswersTheCachedAmplitude : Obligations.GetAmpAnswersTheCachedAmplitude := by
  unfold Obligations.GetAmpAnswersTheCachedAmplitude
  refine fun v s hf => ⟨_, exec_running _ s hf, ?_, rfl⟩
  rw [commandBody, respond_resp, BitVec.toNat_setWidth]
  exact Nat.mod_eq_of_lt (by omega)

/-! ## What a voice's part of a tick writes (R130 to R132) -/

/-- An envelope entry is read at bits 14 to 7 of an accumulator whose sentinel is clear. -/
theorem tableRead_envIndex (t : List Host.Cell) (page : Byte) {e : Word16} (h : sentinel e = false) :
    tableRead t page (envIndex e) = tableByteAt t page.toNat (e.toNat / 128) := by
  have hlt := (sentinel_false_iff e).1 h
  rw [tableRead, tableByteAt, envIndex_toNat, Nat.mod_eq_of_lt (by omega)]

theorem tableRead_waveIndex (t : List Host.Cell) (page : Byte) (wpa : Word16) :
    tableRead t page (waveIndex wpa) = tableByteAt t page.toNat (wpa.toNat / 256) := by
  rw [tableRead, tableByteAt, waveIndex_toNat]

theorem envelopeStep_eq_none_iff (t : List Host.Cell) (x : Voice) :
    envelopeStep t x = none ↔ sentinel x.epa = false ∧ x.erefV = false :=
  ⟨envelopeStep_none, fun ⟨hs, hv⟩ => by simp [envelopeStep, hs, hv]⟩

/-- The envelope step writes `EPA` and `AMP` and nothing else. -/
theorem envelopeStep_frame {t : List Host.Cell} {x y : Voice} (h : envelopeStep t x = some y) :
    y = { x with epa := y.epa, amp := y.amp } := by
  rcases envelopeStep_some h with ⟨_, rfl⟩ | ⟨_, _, rfl⟩
  · rfl
  · rfl

/-- A voice's part of a tick advances the wave phase, and writes `EPA` and `AMP` at most besides. -/
theorem voiceSample_frame {t : List Host.Cell} {updEnv applyMod : Bool} {x y : Voice} {n : Int}
    (h : voiceSample t updEnv applyMod x = .sample y n) :
    y = { x with wpa := x.wpa + x.wpi, epa := y.epa, amp := y.amp } := by
  obtain ⟨x1, ⟨_, he⟩ | ⟨_, rfl⟩, rfl, _⟩ := voiceSample_sample h
  · rw [envelopeStep_frame he]; rfl
  · rfl

/-- Off an update tick the envelope is held. -/
theorem voiceSample_held {t : List Host.Cell} {applyMod : Bool} {x y : Voice} {n : Int}
    (h : voiceSample t false applyMod x = .sample y n) : y.epa = x.epa ∧ y.amp = x.amp := by
  obtain ⟨x1, ⟨hupd, _⟩ | ⟨_, rfl⟩, rfl, _⟩ := voiceSample_sample h
  · cases hupd
  · exact ⟨rfl, rfl⟩

/-- An update tick silences a voice whose note is over. -/
theorem voiceSample_ended {t : List Host.Cell} {applyMod : Bool} {x y : Voice} {n : Int}
    (h : voiceSample t true applyMod x = .sample y n) (hs : sentinel x.epa = true) :
    y.epa = x.epa ∧ y.amp = 0 := by
  obtain ⟨x1, ⟨_, he⟩ | ⟨hupd, _⟩, rfl, _⟩ := voiceSample_sample h
  · rcases envelopeStep_some he with ⟨_, rfl⟩ | ⟨hs', _⟩
    · exact ⟨rfl, rfl⟩
    · simp [hs] at hs'
  · cases hupd

/-- An update tick advances a sounding envelope, which then ends or reads its table. -/
theorem voiceSample_advanced {t : List Host.Cell} {applyMod : Bool} {x y : Voice} {n : Int}
    (h : voiceSample t true applyMod x = .sample y n) (hs : sentinel x.epa = false) :
    x.erefV = true ∧ y.epa = x.epa + x.epi ∧ (sentinel y.epa = true → y.amp = 0) ∧
    (sentinel y.epa = false → y.amp = tableByteAt t x.eref.toNat (y.epa.toNat / 128)) := by
  obtain ⟨x1, ⟨_, he⟩ | ⟨hupd, _⟩, rfl, _⟩ := voiceSample_sample h
  · rcases envelopeStep_some he with ⟨hs', _⟩ | ⟨_, hvalid, rfl⟩
    · simp [hs] at hs'
    · refine ⟨hvalid, rfl, fun hend => if_pos hend, fun hon => ?_⟩
      rw [← tableRead_envIndex t x.eref hon]
      exact if_neg (Bool.eq_false_iff.1 hon)
  · cases hupd

/-- A voice raises `UNSET_ENV_TABLE` when an envelope read is due with no table set (R131), never else. -/
theorem voiceSample_unsetEnvTable_iff (t : List Host.Cell) (updEnv applyMod : Bool) (x : Voice) :
    voiceSample t updEnv applyMod x = .fault .unsetEnvTable ↔
      updEnv = true ∧ sentinel x.epa = false ∧ x.erefV = false := by
  refine ⟨fun h => ?_, fun ⟨hupd, hs, hv⟩ => ?_⟩
  · rcases voiceSample_fault h with ⟨_, hupd, he⟩ | ⟨hc, _⟩
    · exact ⟨hupd, envelopeStep_none he⟩
    · cases hc
  · have he := (envelopeStep_eq_none_iff t x).2 ⟨hs, hv⟩
    simp [voiceSample, hupd, he]

/-- A voice with its wave table set faults for the envelope table alone. -/
theorem voiceSample_fault_of_wrefV {t : List Host.Cell} {updEnv applyMod : Bool} {x : Voice} {c : Cause}
    (h : voiceSample t updEnv applyMod x = .fault c) (hw : x.wrefV = true) : c = .unsetEnvTable := by
  rcases voiceSample_fault h with ⟨hc, _⟩ | ⟨_, x1, hx1, hs⟩
  · exact hc
  · have hkept : x1.wrefV = x.wrefV := by
      rcases hx1 with ⟨_, he⟩ | ⟨_, rfl⟩
      · rw [envelopeStep_frame he]
      · rfl
    have hunset : x1.wrefV = false := (sampleStep_none hs).2
    simp [hkept, hw] at hunset

theorem exists_sample_of_no_fault {t : List Host.Cell} {updEnv applyMod : Bool} {x : Voice}
    (h : ∀ c, voiceSample t updEnv applyMod x ≠ .fault c) :
    ∃ y n, voiceSample t updEnv applyMod x = .sample y n := by
  cases hr : voiceSample t updEnv applyMod x with
  | sample y n => exact ⟨y, n, rfl⟩
  | fault c => exact absurd hr (h c)

/-- Settles O31: the fault by `voiceSample_unsetEnvTable_iff`, the fields by the three cases of the step. -/
theorem envelopeStepFollowsItsCases : Obligations.EnvelopeStepFollowsItsCases := by
  unfold Obligations.EnvelopeStepFollowsItsCases
  simp only [← sentinel_iff, ← sentinel_false_iff]
  intro tb applyMod x
  refine ⟨fun updEnv => voiceSample_unsetEnvTable_iff tb updEnv applyMod x,
    fun updEnv hquiet hw => exists_sample_of_no_fault fun c hc => ?_, fun updEnv y n h => ?_⟩
  · rw [voiceSample_fault_of_wrefV hc hw] at hc
    obtain ⟨hupd, hs, hv⟩ := (voiceSample_unsetEnvTable_iff tb updEnv applyMod x).1 hc
    simp [hupd, hs, hv] at hquiet
  · refine ⟨fun hupd => ?_, fun hupd hs => ?_, fun hupd hs => ?_⟩ <;> subst hupd
    · exact voiceSample_held h
    · exact voiceSample_ended h hs
    · obtain ⟨hv, hepa, hamp⟩ := voiceSample_advanced h hs
      exact ⟨hv, by rw [hepa, BitVec.toNat_add], hamp⟩

theorem asr_eq_fdiv (x : Int) : asr x 8 = Int.fdiv x 256 := by
  rw [Int.fdiv_eq_ediv_of_nonneg x (by decide)]
  rfl

/-- Settles O32: the oscillator step precedes the sample step, which reads at its phase. -/
theorem oscillatorAdvancesBeforeTheSample : Obligations.OscillatorAdvancesBeforeTheSample := by
  unfold Obligations.OscillatorAdvancesBeforeTheSample
  intro tb updEnv applyMod x y n h
  have hy := voiceSample_frame h
  have hwpa : y.wpa = x.wpa + x.wpi := by rw [hy]
  have hwrefV : y.wrefV = x.wrefV := by rw [hy]
  have hwref : y.wref = x.wref := by rw [hy]
  obtain ⟨_, _, _, hs⟩ := voiceSample_sample h
  refine ⟨by rw [hwpa, BitVec.toNat_add], hwpa ▸ hy, ?_⟩
  rcases sampleStep_some hs with ⟨hamp, hn⟩ | ⟨hamp, hv, hn⟩
  · exact ⟨fun _ => hn, fun hne => absurd hamp hne⟩
  · refine ⟨fun h0 => absurd h0 hamp, fun _ => ⟨hwrefV ▸ hv, ?_⟩⟩
    rw [hn, hwref, tableRead_waveIndex, sext8, asr_eq_fdiv]

/-! ## The modulation hook (R133) -/

/-- Two voices that differ in `BASE` and `MDEP` alone. -/
theorem eq_of_blotVoice_eq {x y : Voice} (h : blotVoice x = blotVoice y) :
    x = { y with base := x.base, mdep := x.mdep } := by
  cases x; cases y
  simp only [blotVoice, Voice.mk.injEq] at h ⊢
  simp [h]

theorem voiceSample_keeps_base_mdep {t : List Host.Cell} {updEnv applyMod : Bool} {x y : Voice} {n : Int}
    (h : voiceSample t updEnv applyMod x = .sample y n) : y.base = x.base ∧ y.mdep = x.mdep := by
  rw [voiceSample_frame h]
  exact ⟨rfl, rfl⟩

/-- Settles O33: blotting out `BASE` and `MDEP` does not show in what a voice gives. -/
theorem modulationHookDoesNothing : Obligations.ModulationHookDoesNothing := by
  unfold Obligations.ModulationHookDoesNothing
  intro tb updEnv x b m
  have hblot : (voiceSample tb updEnv true { x with base := b, mdep := m }).blot =
      (voiceSample tb updEnv true x).blot := by
    rw [← voiceSample_blotVoice, ← voiceSample_blotVoice]
    rfl
  refine ⟨voiceSample_applyMod tb updEnv true false x, fun y n h => ⟨?_, voiceSample_keeps_base_mdep h⟩,
    fun c h => ?_⟩ <;> rw [h] at hblot
  · cases h' : voiceSample tb updEnv true { x with base := b, mdep := m } with
    | fault c => rw [h'] at hblot; cases hblot
    | sample y' n' =>
      rw [h'] at hblot
      obtain ⟨hvoice, rfl⟩ := VoiceResult.sample.inj hblot
      obtain ⟨hbase, hmdep⟩ := voiceSample_keeps_base_mdep h'
      rw [eq_of_blotVoice_eq hvoice, hbase, hmdep]
  · cases h' : voiceSample tb updEnv true { x with base := b, mdep := m } with
    | fault c' => rw [h'] at hblot; exact hblot
    | sample y' n' => rw [h'] at hblot; cases hblot

/-! ## The range of a sample (R135) -/

/-- A 256th of a signed byte times an amplitude: the two extreme products are -128 * 255 and 127 * 255. -/
theorem asr_sext8_mul_bounds (b a : Byte) :
    -128 ≤ asr (sext8 b * a.toNat) 8 ∧ asr (sext8 b * a.toNat) 8 ≤ 126 := by
  have hb : -128 ≤ b.toInt ∧ b.toInt ≤ 127 := by
    have hlo := BitVec.le_toInt b
    have hhi := BitVec.toInt_lt (x := b)
    omega
  have ha : (a.toNat : Int) ≤ 255 := by omega
  have hlo : -128 * 255 ≤ b.toInt * a.toNat := by nlinarith
  have hhi : b.toInt * a.toNat ≤ 127 * 255 := by nlinarith
  simp only [asr, sext8]
  omega

/-- Settles O34: a sample is 0 or a 256th of such a product. -/
theorem sampleFitsASignedByte : Obligations.SampleFitsASignedByte := by
  unfold Obligations.SampleFitsASignedByte
  intro tb updEnv applyMod x y n h
  obtain ⟨_, _, _, hs⟩ := voiceSample_sample h
  rcases sampleStep_some hs with ⟨_, rfl⟩ | ⟨_, _, rfl⟩
  · decide
  · exact asr_sext8_mul_bounds _ _

/-! ## Runs of ticks without a fault (R136, R137) -/

/-- Induction along a run of ticks that raises no fault: each tick of it completes. -/
theorem ticks_induction {P : Nat → State → Prop} {s : State} (h0 : P 0 s)
    (hstep : ∀ n u, (tick u).faulted = false → P n u → P (n + 1) (tick u)) (n : Nat)
    (h : (ticks n s).faulted = false) : P n (ticks n s) := by
  induction n with
  | zero => exact h0
  | succ n ih => exact hstep n _ h (ih (tick_completed h).1)

/-- The phase of the voice `y`, `n` ticks after it had the fields of `x` (R136). -/
structure PhaseAfter (x : Voice) (n : Nat) (y : Voice) : Prop where
  wpi : y.wpi = x.wpi
  wpa : y.wpa.toNat = (x.wpa.toNat + n * x.wpi.toNat) % 65536

theorem PhaseAfter.start (x : Voice) : PhaseAfter x 0 x where
  wpi := rfl
  wpa := by rw [Nat.zero_mul, Nat.add_zero, Nat.mod_eq_of_lt x.wpa.isLt]

theorem PhaseAfter.advance {tb : List Host.Cell} {updEnv applyMod : Bool} {x y z : Voice} {n : Nat}
    {value : Int} (h : PhaseAfter x n y) (hz : voiceSample tb updEnv applyMod y = .sample z value) :
    PhaseAfter x (n + 1) z := by
  obtain ⟨hwpi, hwpa⟩ := h
  rw [voiceSample_frame hz]
  refine ⟨hwpi, ?_⟩
  rw [BitVec.toNat_add, hwpi, hwpa, Nat.succ_mul, Nat.mod_add_mod, Nat.add_assoc]

/-- Settles O35: each completed tick of the run advances the phase once. -/
theorem phaseLawOverTicks : Obligations.PhaseLawOverTicks := by
  unfold Obligations.PhaseLawOverTicks
  intro n s v h
  have hphase := ticks_induction (P := fun n u => PhaseAfter (s.voice v) n (u.voice v))
    (.start (s.voice v)) (fun _ _ hok hu => hu.advance (tick_completed_voice hok v).choose_spec) n h
  exact hphase.wpa

/-- R137: the envelope of the voice `y` at the `k`-th update of the note that started with the fields of
`x` at `EPA` = 0. -/
structure EnvelopeAt (tb : List Host.Cell) (x : Voice) (k : Nat) (y : Voice) : Prop where
  epa : (k - 1) * x.epi.toNat < 32768 → y.epa.toNat = k * x.epi.toNat
  amp : 0 < k → k * x.epi.toNat < 32768 →
    y.amp = tableByteAt tb x.eref.toNat (k * x.epi.toNat / 128)
  ended : 32768 ≤ k * x.epi.toNat → 32768 ≤ y.epa.toNat ∧ y.amp = 0

theorem EnvelopeAt.start (tb : List Host.Cell) {x : Voice} (h : x.epa = 0) : EnvelopeAt tb x 0 x where
  epa _ := by rw [h, Nat.zero_mul]; rfl
  amp hk := absurd hk (Nat.lt_irrefl 0)
  ended hk := by omega

/-- An update tick takes the note from its `k`-th update to the next. -/
theorem EnvelopeAt.update {tb : List Host.Cell} {applyMod : Bool} {x y z : Voice} {k : Nat} {n : Int}
    (h : EnvelopeAt tb x k y) (hepi : y.epi = x.epi) (heref : y.eref = x.eref)
    (hle : x.epi.toNat ≤ 32768) (hz : voiceSample tb true applyMod y = .sample z n) :
    EnvelopeAt tb x (k + 1) z := by
  have hsucc : (k + 1) * x.epi.toNat = k * x.epi.toNat + x.epi.toNat := Nat.succ_mul _ _
  by_cases hon : k * x.epi.toNat < 32768
  · have hprev : (k - 1) * x.epi.toNat < 32768 :=
      (Nat.mul_le_mul_right _ (Nat.sub_le k 1)).trans_lt hon
    have hy := h.epa hprev
    obtain ⟨_, hepa, hend, hread⟩ :=
      voiceSample_advanced hz ((sentinel_false_iff y.epa).2 (hy ▸ hon))
    have hsum : z.epa.toNat = (k + 1) * x.epi.toNat := by
      rw [hepa, BitVec.toNat_add, hy, hepi, hsucc]
      exact Nat.mod_eq_of_lt (by omega)
    rw [sentinel_iff, hsum] at hend
    rw [sentinel_false_iff, hsum, heref] at hread
    exact ⟨fun _ => hsum, fun _ => hread, fun hk => ⟨hsum ▸ hk, hend hk⟩⟩
  · obtain ⟨hover, _⟩ := h.ended (by omega)
    obtain ⟨hepa, hamp⟩ := voiceSample_ended hz ((sentinel_iff y.epa).2 hover)
    exact ⟨fun hk => absurd hk hon, fun _ hk => by omega, fun _ => ⟨hepa ▸ hover, hamp⟩⟩

/-- Any other tick leaves the note where it is. -/
theorem EnvelopeAt.hold {tb : List Host.Cell} {applyMod : Bool} {x y z : Voice} {k : Nat} {n : Int}
    (h : EnvelopeAt tb x k y) (hz : voiceSample tb false applyMod y = .sample z n) :
    EnvelopeAt tb x k z := by
  obtain ⟨hepa, hamp⟩ := voiceSample_held hz
  exact ⟨hepa ▸ h.epa, hamp ▸ h.amp, hepa ▸ hamp ▸ h.ended⟩

theorem tick_tables (s : State) : (tick s).tables = s.tables := by rw [tick_frame]

/-- A completed tick steps the envelope divider (R112). -/
theorem tick_completed_divEnv {s : State} (h : (tick s).faulted = false) :
    (tick s).divEnv.toNat = (s.divEnv.toNat + 1) % 4 := by
  obtain ⟨_, _, _, _, ht⟩ := tick_completed h
  rw [ht, beatTick_frame]
  simp

/-- The state `u`, `n` ticks into the note that voice `v` of `s` starts: its envelope has seen one update
for each time the divider came to 0. -/
structure NoteAfter (s : State) (v : VoiceId) (n : Nat) (u : State) : Prop where
  tables : u.tables = s.tables
  divEnv : u.divEnv.toNat = (s.divEnv.toNat + n) % 4
  epi : (u.voice v).epi = (s.voice v).epi
  eref : (u.voice v).eref = (s.voice v).eref
  envelope : EnvelopeAt s.tables (s.voice v) ((s.divEnv.toNat + n) / 4) (u.voice v)

theorem NoteAfter.start {s : State} {v : VoiceId} (h : (s.voice v).epa = 0) : NoteAfter s v 0 s where
  tables := rfl
  divEnv := (Nat.mod_eq_of_lt s.divEnv.isLt).symm
  epi := rfl
  eref := rfl
  envelope := by
    rw [Nat.add_zero, Nat.div_eq_of_lt s.divEnv.isLt]
    exact .start s.tables h

theorem NoteAfter.advance {s u : State} {v : VoiceId} {n : Nat} (h : NoteAfter s v n u)
    (hle : (s.voice v).epi.toNat ≤ 32768) (hok : (tick u).faulted = false) :
    NoteAfter s v (n + 1) (tick u) := by
  obtain ⟨_, hsample⟩ := tick_completed_voice hok v
  have hframe := voiceSample_frame hsample
  have hdiv := h.divEnv
  refine ⟨(tick_tables u).trans h.tables, ?_, ?_, ?_, ?_⟩
  · rw [tick_completed_divEnv hok]
    omega
  · rw [hframe]; exact h.epi
  · rw [hframe]; exact h.eref
  · rw [h.tables] at hsample
    have hgate := updEnvOf_iff u
    cases hupd : updEnvOf u with
    | true =>
      rw [hupd] at hsample hgate
      have hcount : (s.divEnv.toNat + (n + 1)) / 4 = (s.divEnv.toNat + n) / 4 + 1 := by
        have := hgate.1 rfl
        omega
      rw [hcount]
      exact h.envelope.update h.epi h.eref hle hsample
    | false =>
      rw [hupd] at hsample hgate
      have hcount : (s.divEnv.toNat + (n + 1)) / 4 = (s.divEnv.toNat + n) / 4 := by
        have : (u.divEnv.toNat + 1) % 4 ≠ 0 := fun h0 => by cases hgate.2 h0
        omega
      rw [hcount]
      exact h.envelope.hold hsample

/-- Settles O36: `NoteAfter` along the run, at the tick of the `k`-th update. -/
theorem envelopeTrajectoryOverTicks : Obligations.EnvelopeTrajectoryOverTicks := by
  unfold Obligations.EnvelopeTrajectoryOverTicks
  rintro k s t v hepa _ hle rfl hok
  have hnote := ticks_induction (P := NoteAfter s v) (.start hepa)
    (fun _ _ hok' h => h.advance hle hok') _ hok
  have hcount : (s.divEnv.toNat + (4 * k - s.divEnv.toNat)) / 4 = k := by omega
  obtain ⟨hsum, hread, hend⟩ := hcount ▸ hnote.envelope
  exact ⟨hsum, hread, hend⟩

/-! ## An ended note stays silent (R138) -/

/-- The voice's note is over and its amplitude is 0. -/
def silent (x : Voice) : Prop := sentinel x.epa = true ∧ x.amp = 0

/-- A silent voice gives the sample 0 on any tick. -/
theorem voiceSample_of_silent (t : List Host.Cell) (updEnv applyMod : Bool) {x : Voice} (h : silent x) :
    ∃ y, voiceSample t updEnv applyMod x = .sample y 0 := by
  obtain ⟨hs, hamp⟩ := h
  have henv : (if updEnv then envelopeStep t x else some x) = some { x with amp := 0 } := by
    cases updEnv
    · simp [← hamp]
    · simp [envelopeStep, hs]
  rw [voiceSample, henv]
  simp only [modulationHook, ite_self]
  exact ⟨_, rfl⟩

/-- Whatever the gate, a tick leaves the accumulator of an ended note. -/
theorem voiceSample_epa_of_ended {t : List Host.Cell} {updEnv applyMod : Bool} {x y : Voice} {n : Int}
    (h : voiceSample t updEnv applyMod x = .sample y n) (hs : sentinel x.epa = true) :
    y.epa = x.epa := by
  cases updEnv with
  | true => exact (voiceSample_ended h hs).1
  | false => exact (voiceSample_held h).1

theorem voiceSample_keeps_silent (t : List Host.Cell) (updEnv applyMod : Bool) (x y : Voice) (n : Int)
    (h : voiceSample t updEnv applyMod x = .sample y n) (hx : silent x) : silent y := by
  obtain ⟨hs, hamp⟩ := hx
  refine ⟨voiceSample_epa_of_ended h hs ▸ hs, ?_⟩
  cases updEnv with
  | true => exact (voiceSample_ended h hs).2
  | false => exact (voiceSample_held h).2.trans hamp

/-- A command leaves the amplitude, and all but a trigger of the voice leave the sentinel. -/
theorem commandBody_epa_amp (i : Instr) (s : State) (v : VoiceId) :
    ((commandBody i s).voice v).amp = (s.voice v).amp ∧
    (((commandBody i s).voice v).epa = (s.voice v).epa ∨ triggers v i) := by
  rcases commandBody_voice_cases i s v with e | ⟨_, _, _, _, _, _, e⟩ | ⟨htrig, _, e⟩ | ⟨htrig, e⟩ <;>
    rw [e]
  · exact ⟨rfl, .inl rfl⟩
  · exact ⟨rfl, .inl rfl⟩
  · exact ⟨rfl, .inr htrig⟩
  · exact ⟨rfl, .inr htrig⟩

/-- A step leaves a silent voice silent, or issues a trigger of it, which leaves the amplitude 0. -/
theorem step_silent {s t : State} {v : VoiceId} (h : step s = .next t) (hv : silent (s.voice v)) :
    silent (t.voice v) ∨
    ((t.voice v).amp = 0 ∧ ∃ w i, issues s w ∧ decode w = .command i ∧ triggers v i) := by
  have hpop : silent ((popTurn s).voice v) := by rwa [popTurn_voice]
  rcases step_outcomes h with rfl | ⟨_, rfl⟩ | ⟨_, _, rfl⟩ | ⟨_, _, _, rfl⟩ | ⟨w, i, hw, _, hd, rfl⟩ |
    ⟨_, _, rfl⟩ | ⟨_, rfl⟩
  · exact .inl hpop
  · exact .inl (by rwa [refCycle_voice])
  · exact .inl (tick_keeps_voice voiceSample_keeps_silent (popTurn s) v hpop)
  · exact .inl hpop
  · obtain ⟨hs, hamp⟩ := hpop
    obtain ⟨hamp', hepa | htrig⟩ := commandBody_epa_amp i (popTurn s) v
    · exact .inl ⟨hepa ▸ hs, hamp'.trans hamp⟩
    · exact .inr ⟨hamp'.trans hamp, w, i, hw, hd, htrig⟩
  · exact .inl (by rwa [hostRead_voice])
  · exact .inl (by rw [resetAction_voice]; exact ⟨rfl, rfl⟩)

/-- Settles O37: the step by `step_silent`, the sample by `voiceSample_of_silent`. -/
theorem endedNoteStaysSilentUntilATrigger : Obligations.EndedNoteStaysSilentUntilATrigger := by
  unfold Obligations.EndedNoteStaysSilentUntilATrigger
  refine ⟨fun s t v h hs hamp => ?_, fun tb updEnv applyMod x hs hamp =>
    voiceSample_of_silent tb updEnv applyMod ⟨hs, hamp⟩⟩
  rcases step_silent h ⟨hs, hamp⟩ with ⟨hs', hamp'⟩ | ⟨hamp', htrig⟩
  · exact ⟨hamp', .inl hs'⟩
  · exact ⟨hamp', .inr htrig⟩

/-! ## Which faults can come (R131, R134) -/

/-- None of the fault records that R211's table gives has cause 3. -/
theorem statusCause_ne_unsetWaveTable {s : State} (h : faultRecordInv s) : statusCause s.status ≠ 3 := by
  rcases h with ⟨e, _⟩ | ⟨e, _⟩ | ⟨v, e, _⟩ | ⟨e, _⟩ | ⟨v, e, _⟩ <;> rw [e]
  · decide
  · decide
  · rw [← faultStatus_unsetEnvTable, statusCause_faultStatus]
    decide
  · decide
  · rw [← faultStatus_freqZero, statusCause_faultStatus]
    decide

/-- Settles O44: the step keeps the invariant, whose fault record has no cause 3. -/
theorem unsetWaveTableIsNeverLatched : Obligations.UnsetWaveTableIsNeverLatched := by
  unfold Obligations.UnsetWaveTableIsNeverLatched
  intro s t hinv hstep
  rw [step_nextState] at hstep
  cases hstep
  exact statusCause_ne_unsetWaveTable (nextState_blockInv hinv).fault

/-- The voice is over, or has its tables set: no tick of it can fault. -/
def tickReady (x : Voice) : Prop := tablesSetInv x ∧ (sentinel x.epa = true ∨ x.wrefV = true)

theorem tickReady_no_fault {t : List Host.Cell} {updEnv applyMod : Bool} {x : Voice} (h : tickReady x)
    (c : Cause) : voiceSample t updEnv applyMod x ≠ .fault c := by
  obtain ⟨htables, hready⟩ := h
  intro hc
  rw [voiceSample_fault_cause hc htables] at hc
  obtain ⟨_, hs, hv⟩ := (voiceSample_unsetEnvTable_iff t updEnv applyMod x).1 hc
  have hw : x.wrefV = false := htables.1.symm.trans hv
  simp [hs, hw] at hready

theorem voiceSample_tablesSetInv {t : List Host.Cell} {updEnv applyMod : Bool} {x y : Voice} {n : Int}
    (h : voiceSample t updEnv applyMod x = .sample y n) (hx : tablesSetInv x) : tablesSetInv y := by
  obtain ⟨x1, ⟨_, he⟩ | ⟨_, rfl⟩, rfl, _⟩ := voiceSample_sample h
  · have hx1 : tablesSetInv x1 := envelopeStep_tablesSetInv he hx
    exact hx1
  · exact hx

theorem voiceSample_keeps_tickReady (t : List Host.Cell) (updEnv applyMod : Bool) (x y : Voice) (n : Int)
    (h : voiceSample t updEnv applyMod x = .sample y n) (hx : tickReady x) : tickReady y := by
  obtain ⟨htables, hready⟩ := hx
  refine ⟨voiceSample_tablesSetInv h htables, hready.imp (fun hs => ?_) fun hw => ?_⟩
  · rw [voiceSample_epa_of_ended h hs]
    exact hs
  · rw [voiceSample_frame h]
    exact hw

/-- A tick of a running block whose voices are all ready completes. -/
theorem tick_not_faulted_of_tickReady {s : State} (hf : s.faulted = false)
    (h : ∀ v, tickReady (s.voice v)) : (tick s).faulted = false := by
  rcases tick_cases s with ⟨hf', _⟩ | ⟨_, c, v, hr, _⟩ | ⟨_, _, _, _, ht⟩
  · simp [hf] at hf'
  · exact absurd (runEngine_fault hr) (tickReady_no_fault (h v) c)
  · rw [ht, beatTick_frame]
    exact hf

/-- Settles O53, by induction on the number of ticks: each keeps the block running and its voices ready. -/
theorem ticksCompleteOnceTheTablesAreSet : Obligations.TicksCompleteOnceTheTablesAreSet := by
  unfold Obligations.TicksCompleteOnceTheTablesAreSet
  intro n s hf hready
  suffices h : (ticks n s).faulted = false ∧ ∀ v, tickReady ((ticks n s).voice v) from h.1
  induction n with
  | zero => exact ⟨hf, hready⟩
  | succ n ih =>
    obtain ⟨hrun, hvoices⟩ := ih
    exact ⟨tick_not_faulted_of_tickReady hrun hvoices,
      fun v => tick_keeps_voice voiceSample_keeps_tickReady _ v (hvoices v)⟩

end Sys2Proof.Machine
end

section
/-! PROOFS. The mixer of 42_mixer.md: `OUT` as a function of the exact sum of the four samples (R180 to R183). -/

namespace Sys2Proof.Machine

theorem asr_eq_fdiv_two_pow (x : Int) (n : Nat) : asr x n = Int.fdiv x (2 ^ n) :=
  (Int.fdiv_eq_ediv_of_nonneg x (by positivity)).symm

/-- The mixer on numbers, whatever its inputs (R180, R181). -/
theorem mix_toNat (a b c d : Int) :
    ((mix a b c d).toNat : Int) = (127 + Int.fdiv (a + b + c + d) 4) % 256 := by
  have hsum : a + b + (c + d) = a + b + c + d := by ring
  have hmod (x : Int) : ((BitVec.ofInt 8 x).toNat : Int) = x % 256 := by
    rw [BitVec.toNat_ofInt, Int.toNat_of_nonneg (Int.emod_nonneg x (by decide))]
    rfl
  rw [mix, hmod, asr_eq_fdiv_two_pow, hsum]
  rfl

/-- A quarter of a sum of -508 or more is at least -127, so the bias makes it nonnegative. -/
theorem mix_toNat_of_no_wrap {a b c d : Int} (hlo : -508 ≤ a + b + c + d) (hhi : a + b + c + d < 516) :
    ((mix a b c d).toNat : Int) = 127 + Int.fdiv (a + b + c + d) 4 := by
  rw [mix_toNat, Int.fdiv_eq_ediv_of_nonneg _ (by decide)]
  omega

/-- The legacy wraparound of R180: the biased quarter is -1, stored as 255. -/
theorem mix_eq_255_of_wrap {a b c d : Int} (hlo : -512 ≤ a + b + c + d) (hhi : a + b + c + d < -508) :
    mix a b c d = 255 := by
  have hquarter : Int.fdiv (a + b + c + d) 4 = -128 := by
    rw [Int.fdiv_eq_ediv_of_nonneg _ (by decide)]
    omega
  have hout := mix_toNat a b c d
  rw [hquarter] at hout
  exact BitVec.eq_of_toNat_eq (Int.ofNat.inj hout)

/-- Settles O39: samples in range sum to -512..504, which the wrap splits at -508. -/
theorem mixerAveragesAndAddsTheBias : Obligations.MixerAveragesAndAddsTheBias := by
  unfold Obligations.MixerAveragesAndAddsTheBias
  intro a b c d ha hb hc hd
  have hlo : -512 ≤ a + b + c + d := by omega
  have hhi : a + b + c + d ≤ 504 := by omega
  refine ⟨mix_toNat a b c d, fun hsum => ?_, fun hsum => mix_eq_255_of_wrap hlo hsum⟩
  have hout := mix_toNat_of_no_wrap hsum (by omega)
  refine ⟨hout, ?_⟩
  rw [Int.fdiv_eq_ediv_of_nonneg _ (by decide)] at hout
  omega

/-- Settles O40: a quarter of four times a sample is the sample. -/
theorem equalSamplesGiveTheirValuePlusTheBias : Obligations.EqualSamplesGiveTheirValuePlusTheBias := by
  unfold Obligations.EqualSamplesGiveTheirValuePlusTheBias
  refine fun a => ⟨fun ha => mix_eq_255_of_wrap (by omega) (by omega), fun hlo hhi => ?_⟩
  have hsum : a + a + a + a = a * 4 := by ring
  rw [mix_toNat_of_no_wrap (by omega) (by omega), hsum, Int.mul_fdiv_cancel a (by decide)]

end Sys2Proof.Machine
end

section
/-! PROOFS. The block's invariant as a step lemma, and the beat clock of 43_beatclock.md: its step (R190), its
two commands (R192, R193), its independence of the voices (R195) and its period (R191). -/

namespace Sys2Proof.Machine

/-! ## The invariant of the block -/

/-- Settles O47: a step leaves `nextState`, which keeps the invariant turn by turn. -/
theorem stepKeepsTheInvariant : Obligations.StepKeepsTheInvariant := by
  unfold Obligations.StepKeepsTheInvariant
  intro s t hinv hstep
  cases (step_nextState s).symm.trans hstep
  exact nextState_blockInv hinv

/-! ## The step (R190) -/

theorem beatTick_of_idle {s : State} (h : s.bcStart = 0) : beatTick s = s := if_pos h

theorem beatTick_of_last {s : State} (hrun : s.bcStart ≠ 0) (hlast : s.bcCount = 1) :
    beatTick s = { s with bcCount := s.bcStart, bcLatch := true } :=
  (if_neg hrun).trans (if_pos (sub_eq_zero.2 hlast))

theorem beatTick_of_not_last {s : State} (hrun : s.bcStart ≠ 0) (hmore : s.bcCount ≠ 1) :
    beatTick s = { s with bcCount := s.bcCount - 1 } :=
  (if_neg hrun).trans (if_neg (sub_ne_zero.2 hmore))

/-- Settles O22: one lemma per case. -/
theorem beatTickCountsDownAndRollsOver : Obligations.BeatTickCountsDownAndRollsOver := by
  unfold Obligations.BeatTickCountsDownAndRollsOver
  exact fun s => ⟨beatTick_of_idle, beatTick_of_last, beatTick_of_not_last⟩

/-! ## The commands (R192, R193) -/

theorem beatStart_toNat (bpm : Byte) : (beatStart bpm).toNat = 120000 / bpm.toNat := by
  have hquot : 480000 / (4 * bpm.toNat) = 120000 / bpm.toNat :=
    Nat.mul_div_mul_left 120000 bpm.toNat four_pos
  have hle : 120000 / bpm.toNat ≤ 120000 := Nat.div_le_self _ _
  calc (beatStart bpm).toNat = 480000 / (4 * bpm.toNat) % 2 ^ 32 := BitVec.toNat_ofNat _ _
    _ = 120000 / bpm.toNat := by rw [hquot, Nat.mod_eq_of_lt (by omega)]

/-- The fastest tempo, 255, counts down from 470. -/
theorem le_beatStart {bpm : Byte} (h : bpm ≠ 0) : 470 ≤ (beatStart bpm).toNat := by
  rw [beatStart_toNat, Nat.le_div_iff_mul_le (BitVec.toNat_pos_of_ne_zero h)]
  omega

theorem beatStart_ne_zero {bpm : Byte} (h : bpm ≠ 0) : beatStart bpm ≠ 0 := by
  intro h0
  have hle := le_beatStart h
  rw [h0] at hle
  exact absurd hle (by decide)

/-- Settles O20: the body of the command in its two cases. -/
theorem setBpmLoadsTheCountdownOrFaultsOnZero : Obligations.SetBpmLoadsTheCountdownOrFaultsOnZero := by
  unfold Obligations.SetBpmLoadsTheCountdownOrFaultsOnZero
  refine fun bpm s hf => ⟨fun hbpm => ⟨_, exec_running _ s hf, ?_⟩, ?_⟩
  · rw [commandBody_setBpm_nonzero hbpm]
    exact ⟨beatStart_toNat bpm, le_beatStart hbpm, rfl⟩
  · rintro rfl
    rw [exec_running _ s hf, commandBody_setBpm_zero, encode_setBpm_zero, ← faultStatus_bpmZero]
    rfl

/-- Settles O21: the first command leaves the latch clear, so the second answers a clear latch. -/
theorem beatCompleteReadsAndClearsTheLatch : Obligations.BeatCompleteReadsAndClearsTheLatch := by
  unfold Obligations.BeatCompleteReadsAndClearsTheLatch
  exact fun s hf => ⟨_, exec_running _ s hf, flagWord_toNat s.bcLatch, rfl, exec_running _ _ hf⟩

/-! ## Independence of the voices (R195) -/

/-- A voice command leaves the beat clock. -/
theorem commandBody_of_voice {i : Instr} {v : VoiceId} (h : voiceOf i = some v) (s : State) :
    commandBody i s = { s with
      voices := (commandBody i s).voices, resp := (commandBody i s).resp
      status := (commandBody i s).status, faultCmd := (commandBody i s).faultCmd } := by
  cases i with
  | triggerHz v freq => simp only [commandBody]; split <;> rfl
  | setBpm bpm => cases h
  | beatComplete => cases h
  | setup v wref winc eref einc mdep => rfl
  | triggerMidi v note => rfl
  | retrigger v => rfl
  | getAmp v => rfl

/-- A command of no voice leaves the voices. -/
theorem commandBody_of_no_voice {i : Instr} (h : voiceOf i = none) (s : State) :
    (commandBody i s).voices = s.voices := by
  cases i with
  | setBpm bpm =>
    by_cases hb : bpm = 0
    · rw [hb, commandBody_setBpm_zero]; rfl
    · rw [commandBody_setBpm_nonzero hb]; rfl
  | beatComplete => rfl
  | setup v wref winc eref einc mdep => cases h
  | triggerMidi v note => cases h
  | retrigger v => cases h
  | triggerHz v freq => cases h
  | getAmp v => cases h

/-- The beat clock's step reads and writes the beat clock's registers alone. -/
theorem beatTick_congr {s u : State} (hstart : u.bcStart = s.bcStart) (hcount : u.bcCount = s.bcCount)
    (hlatch : u.bcLatch = s.bcLatch) :
    (beatTick u).bcStart = (beatTick s).bcStart ∧ (beatTick u).bcCount = (beatTick s).bcCount ∧
    (beatTick u).bcLatch = (beatTick s).bcLatch := by
  by_cases hidle : s.bcStart = 0
  · rw [beatTick_of_idle hidle, beatTick_of_idle (hstart.trans hidle)]
    exact ⟨hstart, hcount, hlatch⟩
  · have hrun : u.bcStart ≠ 0 := hstart ▸ hidle
    by_cases hlast : s.bcCount = 1
    · rw [beatTick_of_last hidle hlast, beatTick_of_last hrun (hcount.trans hlast)]
      exact ⟨hstart, hstart, rfl⟩
    · rw [beatTick_of_not_last hidle hlast, beatTick_of_not_last hrun (hcount ▸ hlast)]
      exact ⟨hstart, congrArg (· - 1) hcount, hlatch⟩

/-- A tick that completes steps the beat clock from its own registers (R114). -/
theorem tick_completed_beat {s : State} (h : (tick s).faulted = false) :
    (tick s).bcStart = (beatTick s).bcStart ∧ (tick s).bcCount = (beatTick s).bcCount ∧
    (tick s).bcLatch = (beatTick s).bcLatch := by
  obtain ⟨_, _, _, _, ht⟩ := tick_completed h
  rw [ht]
  exact beatTick_congr rfl rfl rfl

/-- Settles O24: the frames of the commands, and the beat clock's part of a completed tick. -/
theorem beatClockIsIndependentOfTheVoices : Obligations.BeatClockIsIndependentOfTheVoices := by
  unfold Obligations.BeatClockIsIndependentOfTheVoices
  refine ⟨fun i v s t hv hexec => ?_, fun i s t hv hexec => ?_, fun s _ h => tick_completed_beat h⟩
  · rcases exec_next hexec with ⟨_, rfl⟩ | ⟨_, rfl⟩
    · exact ⟨rfl, rfl, rfl⟩
    · rw [commandBody_of_voice hv]
      exact ⟨rfl, rfl, rfl⟩
  · rcases exec_next hexec with ⟨_, rfl⟩ | ⟨_, rfl⟩
    · rfl
    · have hframe := commandBody_frame i s
      rwa [commandBody_of_no_voice hv] at hframe

/-! ## The latch's period (R191) -/

/-- The latch is up after a completed tick if it was before, or if the tick rolled over. -/
theorem tick_completed_latch_iff {s : State} (h : (tick s).faulted = false) (hrun : s.bcStart ≠ 0) :
    (tick s).bcLatch = true ↔ s.bcLatch = true ∨ s.bcCount = 1 := by
  obtain ⟨_, _, hlatch⟩ := tick_completed_beat h
  rw [hlatch]
  by_cases hlast : s.bcCount = 1
  · rw [beatTick_of_last hrun hlast]
    exact ⟨fun _ => .inr hlast, fun _ => rfl⟩
  · rw [beatTick_of_not_last hrun hlast]
    exact ⟨.inl, fun hup => hup.resolve_right hlast⟩

/-- Whether a tick completes does not depend on the latch. -/
theorem tick_completed_with_latch {s : State} (h : (tick s).faulted = false) (b : Bool) :
    (tick { s with bcLatch := b }).faulted = false := by
  obtain ⟨hf, _, _, hr, _⟩ := tick_completed h
  rw [tick_of_output (s := { s with bcLatch := b }) hf hr, beatTick_frame]
  exact hf

/-- R191: the beat clock in `u`, `n` ticks after it was loaded with the countdown `start`: the count is what
is left to the next multiple of `start`, and the latch is up once one has passed. -/
structure BeatAfter (start : Word32) (n : Nat) (u : State) : Prop where
  bcStart : u.bcStart = start
  pos : 1 ≤ u.bcCount.toNat
  le : u.bcCount.toNat ≤ start.toNat
  dvd : start.toNat ∣ n + u.bcCount.toNat
  latch : u.bcLatch = true ↔ start.toNat ≤ n

/-- The next tick rolls over exactly when its number is a multiple of the countdown. -/
theorem BeatAfter.last_iff {start : Word32} {n : Nat} {u : State} (h : BeatAfter start n u) :
    u.bcCount = 1 ↔ start.toNat ∣ n + 1 := by
  obtain ⟨_, hpos, hle, hdvd, _⟩ := h
  constructor
  · intro hlast
    rwa [hlast] at hdvd
  · intro hnext
    have hrest : start.toNat ∣ u.bcCount.toNat - 1 := by
      have hdiff := Nat.dvd_sub hdvd hnext
      rwa [Nat.add_sub_add_left] at hdiff
    have hzero : u.bcCount.toNat - 1 = 0 := Nat.eq_zero_of_dvd_of_lt hrest (by omega)
    have hone : u.bcCount.toNat = 1 := by omega
    exact BitVec.eq_of_toNat_eq hone

theorem BeatAfter.running {start : Word32} {n : Nat} {u : State} (h : BeatAfter start n u) :
    u.bcStart ≠ 0 := by
  rw [h.bcStart, BitVec.toNat_ne]
  exact Nat.ne_of_gt (h.pos.trans h.le)

/-- A command that loads the counter with a nonzero countdown and clears the latch starts the count. -/
theorem BeatAfter.start {t : State} (hrun : t.bcStart ≠ 0) (hcount : t.bcCount = t.bcStart)
    (hlatch : t.bcLatch = false) : BeatAfter t.bcStart 0 t := by
  have hpos : 0 < t.bcStart.toNat := BitVec.toNat_pos_of_ne_zero hrun
  refine ⟨rfl, by rwa [hcount], by rw [hcount], by rw [hcount, Nat.zero_add], ?_⟩
  rw [hlatch]
  exact ⟨fun hup => absurd hup Bool.false_ne_true, fun hle => absurd hle hpos.not_ge⟩

/-- The latch part of `BeatAfter.advance`: no multiple of `start` comes before `start` itself. -/
theorem BeatAfter.latch_tick_iff {start : Word32} {n : Nat} {u : State} (h : BeatAfter start n u)
    (hok : (tick u).faulted = false) : (tick u).bcLatch = true ↔ start.toNat ≤ n + 1 := by
  rw [tick_completed_latch_iff hok h.running, h.latch, h.last_iff]
  constructor
  · rintro (hle | hdvd)
    · exact Nat.le_succ_of_le hle
    · exact Nat.le_of_dvd n.succ_pos hdvd
  · intro hle
    exact (Nat.le_succ_iff.1 hle).imp_right dvd_of_eq

theorem BeatAfter.advance {start : Word32} {n : Nat} {u : State} (h : BeatAfter start n u)
    (hok : (tick u).faulted = false) : BeatAfter start (n + 1) (tick u) := by
  have hlatch := h.latch_tick_iff hok
  have hnext := h.last_iff
  have hrun := h.running
  obtain ⟨hstart', hcount', _⟩ := tick_completed_beat hok
  obtain ⟨hstart, hpos, hle, hdvd, _⟩ := h
  by_cases hlast : u.bcCount = 1
  · rw [beatTick_of_last hrun hlast] at hstart' hcount'
    have hreload : (tick u).bcCount = start := hcount'.trans hstart
    exact ⟨hstart'.trans hstart, by rw [hreload]; exact hpos.trans hle, by rw [hreload],
      by rw [hreload]; exact (hnext.1 hlast).add dvd_rfl, hlatch⟩
  · rw [beatTick_of_not_last hrun hlast] at hstart' hcount'
    have hmore : u.bcCount.toNat ≠ 1 := BitVec.toNat_ne.1 hlast
    have hdown : (tick u).bcCount.toNat + 1 = u.bcCount.toNat := by
      rw [hcount']
      bv_omega
    refine ⟨hstart'.trans hstart, by omega, by omega, ?_, hlatch⟩
    rwa [Nat.add_assoc, Nat.add_comm 1, hdown]

/-- Settles O23: `BeatAfter` along the ticks that follow the command. -/
theorem beatLatchIsSetEveryBcStartTicks : Obligations.BeatLatchIsSetEveryBcStartTicks := by
  unfold Obligations.BeatLatchIsSetEveryBcStartTicks
  intro bpm s t hbpm hf hexec n hok
  have hstart : BeatAfter t.bcStart 0 t := by
    cases (exec_running _ s hf).symm.trans hexec
    rw [commandBody_setBpm_nonzero hbpm]
    exact .start (beatStart_ne_zero hbpm) rfl rfl
  have hbeat : BeatAfter t.bcStart n (ticks n t) :=
    ticks_induction hstart (fun _ _ hok' h => h.advance hok') n (tick_completed hok).1
  refine ⟨?_, hbeat.latch_tick_iff hok⟩
  have hclear := tick_completed_latch_iff (tick_completed_with_latch hok false) hbeat.running
  rw [hclear, ← hbeat.last_iff]
  exact or_iff_right Bool.false_ne_true

end Sys2Proof.Machine
end

section
/-! PROOFS. Faults (60_exceptions.md): a latched fault leaves the state before its operation plus the record
(R212), and a halted block counts reference cycles and answers reads until reset (R213). -/

namespace Sys2Proof.Machine

/-! ## The fault record -/

theorem operationTick_iff (op : Operation) : operationTick op = true ↔ op = .tick := by
  cases op <;> simp [operationTick]

/-- The codes of R211 tell the causes apart. -/
theorem causeCode_injective : Function.Injective causeCode := by
  intro c d
  cases c <;> cases d <;> decide

/-- `FVOICE` is 0 for the causes that name no voice: `ILLEGAL_COMMAND` and `BPM_ZERO` (R211). -/
def voiceFits (c : Cause) (v : VoiceId) : Prop := c = .illegalCommand ∨ c = .bpmZero → v = .v0

theorem voiceFits_freqZero (v : VoiceId) : voiceFits .freqZero v := by simp [voiceFits]

theorem voiceFits_v0 (c : Cause) : voiceFits c .v0 := fun _ => rfl

theorem voiceFits.statusVoice_eq_zero {c : Cause} {v : VoiceId} (h : voiceFits c v) {ftick : Bool}
    (hc : statusCause (faultStatus c v ftick) = causeCode .illegalCommand ∨
      statusCause (faultStatus c v ftick) = causeCode .bpmZero) :
    statusVoice (faultStatus c v ftick) = 0 := by
  rw [statusCause_faultStatus, causeCode_injective.eq_iff, causeCode_injective.eq_iff] at hc
  rw [statusVoice_faultStatus, h hc, bitsOfVoice]

/-! ## What latches a fault (R212) -/

theorem status_ne_of_latched {s t : State} (hf : s.faulted = false) (ht : t.faulted = true) :
    t.status ≠ s.status := by
  intro h
  rw [faulted_eq_of_status h, hf] at ht
  cases ht

/-- A command that latches a fault on a running block does nothing else. -/
theorem commandBody_latches {i : Instr} {s : State} (hf : s.faulted = false)
    (ht : (commandBody i s).faulted = true) :
    ∃ c v, voiceFits c v ∧ commandBody i s = raiseFault c v (.command (encode i)) s := by
  have hwritten := status_ne_of_latched hf ht
  cases i with
  | triggerHz v freq =>
    by_cases hfreq : freq = 0
    · exact ⟨.freqZero, v, voiceFits_freqZero v, by rw [hfreq, commandBody_triggerHz_zero]⟩
    · exact absurd (by rw [commandBody_triggerHz_nonzero v hfreq]; rfl) hwritten
  | setBpm bpm =>
    by_cases hbpm : bpm = 0
    · exact ⟨.bpmZero, .v0, voiceFits_v0 _, by rw [hbpm, commandBody_setBpm_zero]⟩
    · exact absurd (by rw [commandBody_setBpm_nonzero hbpm]; rfl) hwritten
  | _ => exact absurd rfl hwritten

/-- A tick that latches a fault on a running block clears `TB_PEND` and does nothing else. -/
theorem tick_latches {s : State} (hf : s.faulted = false) (ht : (tick s).faulted = true) :
    ∃ c v, tick s = raiseFault c v .tick { s with tbPend := false } := by
  rcases tick_cases s with ⟨hf', _⟩ | ⟨_, c, v, _, h⟩ | ⟨_, _, _, _, h⟩
  · cases hf.symm.trans hf'
  · exact ⟨c, v, h⟩
  · exact absurd (by rw [h, beatTick_frame]; rfl) (status_ne_of_latched hf ht)

@[simp] theorem faulted_resetAction (s : State) : (resetAction s).faulted = false :=
  (by decide : State.reset.faulted = false)

/-- A step that latches a fault is a command word's, or runs the tick. -/
theorem step_latches {s t : State} (h : step s = .next t) (hf : s.faulted = false)
    (ht : t.faulted = true) :
    (∃ w c v, issues s w ∧ voiceFits c v ∧ t = raiseFault c v (.command w) (popTurn s)) ∨
    ((nextTurn s = .tick ∨ nextTurn s = .refCycle) ∧ ∃ c v turns,
      t = { raiseFault c v .tick { popTurn s with tbPend := false } with schedule := turns }) := by
  have hpop : (popTurn s).faulted = false := (popTurn_faulted s).trans hf
  have hwritten := status_ne_of_latched hpop ht
  rcases step_outcomes h with rfl | ⟨_, rfl⟩ | ⟨hturn, turns, rfl⟩ | ⟨w, hw, _, rfl⟩ |
    ⟨w, i, hw, _, hd, rfl⟩ | ⟨_, _, rfl⟩ | ⟨_, rfl⟩
  · exact absurd rfl hwritten
  · exact absurd (by rw [refCycle_frame]) hwritten
  · obtain ⟨c, v, htick⟩ := tick_latches hpop ht
    exact .inr ⟨hturn, c, v, turns, by rw [htick]⟩
  · exact .inl ⟨w, _, _, hw, voiceFits_v0 _, rfl⟩
  · obtain ⟨c, v, hfits, hbody⟩ := commandBody_latches hpop ht
    exact .inl ⟨w, c, v, hw, hfits, by rw [hbody, encode_of_decode hd]⟩
  · exact absurd (by rw [hostRead_frame]) hwritten
  · rw [faulted_resetAction] at ht
    cases ht

/-- Settles O41: the record field by field, and the two kinds of step in `step_latches`. -/
theorem faultsArePrecise : Obligations.FaultsArePrecise := by
  unfold Obligations.FaultsArePrecise
  refine ⟨fun c v op s => ⟨_, rfl, rfl, statusFaulted_faultStatus c v _, statusCause_faultStatus c v _,
    statusVoice_faultStatus c v _, ?_, ?_, ?_⟩, fun s t h hf ht => ?_⟩
  · rw [raiseFault_status, statusTick_faultStatus, operationTick_iff]
  · rintro rfl
    rfl
  · rintro w rfl
    rfl
  · rcases step_latches h hf ht with ⟨w, c, v, hw, hfits, rfl⟩ | ⟨hturn, c, v, turns, rfl⟩
    · exact .inl ⟨w, hw, statusTick_faultStatus c v false, hfits.statusVoice_eq_zero, rfl⟩
    · refine .inr ⟨hturn, statusTick_faultStatus c v true, ?_⟩
      rw [popTurn_frame]
      rfl

/-! ## The halted block (R213) -/

theorem tick_halted {s : State} (h : s.faulted = true) : tick s = { s with tbPend := false } := by
  rcases tick_cases s with ⟨_, ht⟩ | ⟨hf, _⟩ | ⟨hf, _⟩
  · exact ht
  · cases h.symm.trans hf
  · cases h.symm.trans hf

theorem issueCommand_halted (w : Word64) {s : State} (h : s.faulted = true) :
    issueCommand w s = .next s := if_pos h

/-- Every step of a halted block but reset writes the timebase and the model's own fields at most. -/
theorem step_halted_frame {s t : State} (h : step s = .next t) (hf : s.faulted = true)
    (hn : nextTurn s ≠ .reset) :
    t = { s with
      tbRef := t.tbRef, tbNext := t.tbNext, tbPend := t.tbPend
      schedule := t.schedule, draws := t.draws, readData := t.readData } := by
  rcases step_outcomes h with rfl | ⟨_, rfl⟩ | ⟨_, turns, rfl⟩ | ⟨_, _, hf', _⟩ | ⟨_, _, _, hf', _⟩ |
    ⟨off, width, rfl⟩ | ⟨hn', _⟩
  · rw [popTurn_frame]
  · rw [refCycle_frame, popTurn_frame]
  · rw [tick_halted ((popTurn_faulted s).trans hf), popTurn_frame]
  · cases hf.symm.trans hf'
  · cases hf.symm.trans hf'
  · rw [hostRead_popTurn_frame]
  · exact absurd hn' hn

theorem step_reset {s : State} (h : nextTurn s = .reset) :
    step s = .next (resetAction (popTurn s)) := by
  rw [step_eq, h, turnBody]

/-- A reference cycle counts, whether or not it matches. -/
theorem refCycle_tbRef (s : State) : (refCycle s).tbRef = s.tbRef + 1 := by
  cases h : matchIsNext s with
  | true => rw [refCycle_of_match h]
  | false => rw [refCycle_of_no_match h]

/-- Settles O43: a halted block's tick, command, reads and reference cycle, and the frame of its steps. -/
theorem haltedBlockOnlyCountsAndAnswersReads : Obligations.HaltedBlockOnlyCountsAndAnswersReads := by
  unfold Obligations.HaltedBlockOnlyCountsAndAnswersReads
  refine fun s hf => ⟨tick_halted hf, fun w => issueCommand_halted w hf, fun i => exec_halted i s hf,
    ?_, ?_, ?_, refCycle_tbRef s, fun hmatch => ?_, fun t h hn => step_halted_frame h hf hn,
    fun t h hn => ?_⟩
  · rw [hostRead_of_windowRead (windowRead_status s), zext64_toNat]
  · rw [hostRead_of_windowRead (windowRead_faultCmd s)]
  · rw [hostRead_of_windowRead (windowRead_resp s), zext64_toNat]
  · rw [refCycle_tbRef, ← matchIsNext_iff] at hmatch
    rw [refCycle_of_match hmatch]
    exact ⟨rfl, rfl⟩
  · cases (step_reset hn).symm.trans h
    exact faulted_resetAction _

end Sys2Proof.Machine
end

section
/-! PROOFS. Reset and hazards (70_reset_and_hazards.md): the registers after reset (R240), the ticks of the block
that no command has reached (R242), and the wait of a triggered voice for its envelope update (R251). -/

namespace Sys2Proof.Machine

/-! ## The registers after reset (R240) -/

theorem resetAction_registersAtReset (s : State) : registersAtReset (resetAction s) := by
  refine ⟨fun v => ?_, rfl, rfl, rfl, rfl, rfl, rfl, rfl, rfl, rfl, rfl, rfl, rfl⟩
  rw [resetAction_voice]
  exact ⟨rfl, rfl, rfl, rfl, rfl, rfl, rfl, rfl, rfl, rfl, rfl⟩

/-- Only reset clears a latched fault: every other step of a halted block leaves `STATUS` (R213). -/
theorem nextTurn_eq_reset_of_unlatched {s t : State} (hf : s.faulted = true) (h : step s = .next t)
    (ht : t.faulted = false) : nextTurn s = .reset := by
  by_contra hn
  have hstatus : t.status = s.status := by rw [step_halted_frame h hf hn]
  cases hf.symm.trans ((faulted_eq_of_status hstatus).symm.trans ht)

/-- Settles O45: the reset action has every listed value and keeps the launch inputs, and no other step clears a
fault. -/
theorem resetGivesEveryRegisterItsValue : Obligations.ResetGivesEveryRegisterItsValue := by
  unfold Obligations.ResetGivesEveryRegisterItsValue
  refine ⟨resetAction_registersAtReset State.reset, fun s hn => ?_,
    fun s t hf h ht => nextTurn_eq_reset_of_unlatched hf h ht⟩
  refine ⟨_, step_reset hn, resetAction_registersAtReset _, ?_⟩
  rw [popTurn_frame]
  exact ⟨rfl, rfl⟩

/-! ## Ticks right after reset (R242) -/

/-- A reset voice gives the sample 0 on every tick and keeps its fields: its increment is 0 and its note over. -/
theorem voiceSample_reset (t : List Host.Cell) (updEnv applyMod : Bool) :
    voiceSample t updEnv applyMod Voice.reset = .sample Voice.reset 0 := by
  cases updEnv <;> cases applyMod <;> rfl

theorem get_voices_reset (v : VoiceId) : State.reset.voices.get v = Voice.reset :=
  resetAction_voice State.reset v

/-- The state `n` ticks after reset, no command between them. -/
structure IdleAfterReset (n : Nat) (u : State) : Prop where
  running : u.faulted = false
  voices : u.voices = State.reset.voices
  out : u.out = 127
  bcStart : u.bcStart = 0
  bcLatch : u.bcLatch = false
  divEnv : u.divEnv.toNat = n % 4
  divMod : u.divMod.toNat = n % 800

/-- Four samples of 0 mix to the bias, and the idle beat clock stays. -/
theorem tick_of_resetVoices {u : State} (hf : u.faulted = false) (hv : u.voices = State.reset.voices)
    (hidle : u.bcStart = 0) :
    tick u = { stepDividers { u with tbPend := false } with voices := State.reset.voices, out := 127 } := by
  have hsample (v : VoiceId) : voiceSample u.tables (updEnvOf u) (applyModOf u) (u.voices.get v) =
      .sample Voice.reset 0 := by
    rw [hv, get_voices_reset, voiceSample_reset]
  rw [tick_of_output hf (runEngine_of_samples hsample)]
  exact beatTick_of_idle hidle

theorem IdleAfterReset.advance {n : Nat} {u : State} (h : IdleAfterReset n u) :
    IdleAfterReset (n + 1) (tick u) := by
  obtain ⟨hf, hv, _, hidle, hlatch, henv, hmod⟩ := h
  rw [tick_of_resetVoices hf hv hidle]
  refine ⟨hf, rfl, rfl, hidle, hlatch, ?_, ?_⟩
  · simp [henv]
  · simp only [stepDividers_divMod, BitVec.toNat_ofNat, hmod]
    omega

theorem ticks_reset_idle (n : Nat) : IdleAfterReset n (ticks n State.reset) := by
  induction n with
  | zero => exact ⟨rfl, rfl, rfl, rfl, rfl, rfl, rfl⟩
  | succ n ih => exact ih.advance

/-- Settles O30: `IdleAfterReset` along the ticks. -/
theorem silentBlockTicksFromReset : Obligations.SilentBlockTicksFromReset := by
  unfold Obligations.SilentBlockTicksFromReset
  intro n
  obtain ⟨hf, hv, hout, _, hlatch, henv, hmod⟩ := ticks_reset_idle n
  exact ⟨_, rfl, hf, hv, hout, hlatch, henv, hmod⟩

/-! ## The wait for the envelope update (R251) -/

/-- The state `u`, `n` ticks after `s` with no envelope update among them: of voice `v` only the wave phase has
moved. -/
structure EnvelopeHeld (s : State) (v : VoiceId) (n : Nat) (u : State) : Prop where
  tables : u.tables = s.tables
  divEnv : u.divEnv.toNat = s.divEnv.toNat + n
  voice : u.voice v = { s.voice v with wpa := (u.voice v).wpa }

theorem EnvelopeHeld.advance {s u : State} {v : VoiceId} {n : Nat} (h : EnvelopeHeld s v n u)
    (hlt : s.divEnv.toNat + (n + 1) < 4) (hok : (tick u).faulted = false) :
    EnvelopeHeld s v (n + 1) (tick u) := by
  obtain ⟨htables, hdiv, hvoice⟩ := h
  have hoff : updEnvOf u = false := by
    rw [← Bool.not_eq_true, updEnvOf_iff]
    omega
  obtain ⟨_, hsample⟩ := tick_completed_voice hok v
  rw [hoff] at hsample
  obtain ⟨hepa, hamp⟩ := voiceSample_held hsample
  refine ⟨(tick_tables u).trans htables, ?_, ?_⟩
  · rw [tick_completed_divEnv hok]
    omega
  · rw [voiceSample_frame hsample, hepa, hamp, hvoice]

theorem ticks_envelopeHeld {s : State} (v : VoiceId) {n : Nat} (hlt : s.divEnv.toNat + n < 4)
    (hok : (ticks n s).faulted = false) : EnvelopeHeld s v n (ticks n s) :=
  ticks_induction (P := fun m u => s.divEnv.toNat + m < 4 → EnvelopeHeld s v m u)
    (fun _ => ⟨rfl, rfl, rfl⟩) (fun _ _ hok' h hlt' => (h (by omega)).advance hlt' hok') n hok hlt

/-- The tick that brings the divider to 0 takes a cleared accumulator to its first step. -/
theorem EnvelopeHeld.update {s u : State} {v : VoiceId} {n : Nat} (h : EnvelopeHeld s v n u)
    (hlast : 3 = s.divEnv.toNat + n) (hepa : (s.voice v).epa = 0) (hok : (tick u).faulted = false) :
    ((tick u).voice v).epa = (s.voice v).epi ∧
    ((s.voice v).epi.toNat < 32768 → ((tick u).voice v).amp =
      tableByteAt s.tables (s.voice v).eref.toNat ((s.voice v).epi.toNat / 128)) := by
  obtain ⟨htables, hdiv, hvoice⟩ := h
  have hon : updEnvOf u = true := by
    rw [updEnvOf_iff]
    omega
  have hepa' : (u.voice v).epa = 0 := by rw [hvoice, hepa]
  have hepi : (u.voice v).epi = (s.voice v).epi := by rw [hvoice]
  have heref : (u.voice v).eref = (s.voice v).eref := by rw [hvoice]
  obtain ⟨_, hsample⟩ := tick_completed_voice hok v
  rw [hon, htables] at hsample
  obtain ⟨_, hfirst, _, hread⟩ := voiceSample_advanced hsample (by rw [hepa']; decide)
  rw [hepa', zero_add, hepi] at hfirst
  rw [sentinel_false_iff, hfirst, heref] at hread
  exact ⟨hfirst, hread⟩

/-- Settles O38: the envelope is held while the divider counts to 3, and the next tick updates it. -/
theorem amplitudeWaitsForTheEnvelopeTick : Obligations.AmplitudeWaitsForTheEnvelopeTick := by
  unfold Obligations.AmplitudeWaitsForTheEnvelopeTick
  intro s v
  refine ⟨fun m hm hok => ?_, fun hepa hok => ?_⟩
  · have hheld := (ticks_envelopeHeld v (by omega) hok).voice
    rw [hheld]
    exact ⟨rfl, rfl⟩
  · obtain ⟨n, hn⟩ := Nat.exists_eq_add_of_le (Nat.le_of_lt_succ s.divEnv.isLt)
    have hcount : 4 - s.divEnv.toNat = n + 1 := by omega
    rw [hcount] at hok ⊢
    have hrun : (ticks n s).faulted = false := (tick_completed hok).1
    exact (ticks_envelopeHeld v (by omega) hrun).update hn hepa hok

end Sys2Proof.Machine
end

section
/-! PROOFS. What the commands leave unchanged (41_voice.md section 2), the encoding as a round trip and on the spec's
own words (30_encoding.md sections 9 and 12), the free schedule (R12), the invariant at reset (R240), and the reads of
the window (R38). -/

namespace Sys2Proof.Machine

/-! ## The encoding (R88, R93, R94) -/

/-- Settles O3, by `decode_encode`. -/
theorem decodeAfterEncodeIsIdentity : Obligations.DecodeAfterEncodeIsIdentity := by
  unfold Obligations.DecodeAfterEncodeIsIdentity
  exact fun _ => decode_encode

/-- Settles O1: each of the listed words is evaluated. -/
theorem specWordsDecodeAsListed : Obligations.SpecWordsDecodeAsListed := by
  unfold Obligations.SpecWordsDecodeAsListed
  decide

/-! ## The frame of the commands (R150 to R155) -/

/-- A trigger of a voice is a voice command of it. -/
theorem voiceOf_of_triggers {v : VoiceId} {i : Instr} (h : triggers v i) : voiceOf i = some v := by
  rcases h with ⟨_, rfl⟩ | rfl | ⟨_, rfl⟩ <;> rfl

/-- A command leaves every voice it does not name. -/
theorem commandBody_other_voice {i : Instr} {u : VoiceId} (h : voiceOf i ≠ some u) (s : State) :
    (commandBody i s).voice u = s.voice u := by
  rcases commandBody_voice_cases i s u with e | ⟨_, _, _, _, _, rfl, _⟩ | ⟨htrig, _⟩ | ⟨htrig, _⟩
  · exact e
  · exact absurd rfl h
  · exact absurd (voiceOf_of_triggers htrig) h
  · exact absurd (voiceOf_of_triggers htrig) h

/-- Of the voice commands only `TRIGGER_HZ` of 0 writes the fault record (R153). -/
theorem commandBody_keeps_fault_record {i : Instr} {v : VoiceId} (hv : voiceOf i = some v)
    (hzero : i ≠ .triggerHz v 0) (s : State) :
    (commandBody i s).status = s.status ∧ (commandBody i s).faultCmd = s.faultCmd := by
  cases i with
  | triggerHz u freq =>
    cases hv
    have hfreq : freq ≠ 0 := fun h => hzero (h ▸ rfl)
    rw [commandBody_triggerHz_nonzero v hfreq]
    exact ⟨rfl, rfl⟩
  | setBpm bpm => cases hv
  | beatComplete => cases hv
  | setup u wref winc eref einc mdep => exact ⟨rfl, rfl⟩
  | triggerMidi u note => exact ⟨rfl, rfl⟩
  | retrigger u => exact ⟨rfl, rfl⟩
  | getAmp u => exact ⟨rfl, rfl⟩

theorem commandBody_tables (i : Instr) (s : State) : (commandBody i s).tables = s.tables := by
  rw [commandBody_frame]

/-- Settles O17: a halted block ignores the command, and a running one is left as the command's frame says. -/
theorem voiceCommandsTouchOnlyTheirVoice : Obligations.VoiceCommandsTouchOnlyTheirVoice := by
  unfold Obligations.VoiceCommandsTouchOnlyTheirVoice
  intro i v s t hv hexec
  rcases exec_next hexec with ⟨_, rfl⟩ | ⟨_, rfl⟩
  · exact ⟨fun _ _ => rfl, rfl, fun _ => ⟨rfl, rfl⟩, fun _ => rfl⟩
  · have hother : ∀ u, u ≠ v → voiceOf i ≠ some u := fun u hu h =>
      hu (Option.some.inj (h.symm.trans hv))
    exact ⟨fun u hu => commandBody_other_voice (hother u hu) s, commandBody_of_voice hv s,
      fun hzero => commandBody_keeps_fault_record hv hzero s, fun a => by rw [commandBody_tables]⟩

/-- Settles O18: each thing a command can make of a voice keeps `WPA` and `AMP`, and clears `EPA` or keeps it. -/
theorem commandsKeepPhaseAndAmplitude : Obligations.CommandsKeepPhaseAndAmplitude := by
  unfold Obligations.CommandsKeepPhaseAndAmplitude
  intro i s t u hexec
  rcases exec_next hexec with ⟨_, rfl⟩ | ⟨_, rfl⟩
  · exact ⟨rfl, rfl, .inl rfl⟩
  · rcases commandBody_voice_cases i s u with e | ⟨_, _, _, _, _, _, e⟩ | ⟨htrig, _, e⟩ | ⟨htrig, e⟩ <;>
      rw [e]
    · exact ⟨rfl, rfl, .inl rfl⟩
    · exact ⟨rfl, rfl, .inl rfl⟩
    · exact ⟨rfl, rfl, .inr ⟨rfl, htrig⟩⟩
    · exact ⟨rfl, rfl, .inr ⟨rfl, htrig⟩⟩

/-! ## The schedule, the reset and the reads -/

/-- Settles O9: the turn at the head of the schedule is the next one, and taking it leaves the rest. -/
theorem anyTurnMayComeNext : Obligations.AnyTurnMayComeNext := by
  unfold Obligations.AnyTurnMayComeNext
  intro s turn
  rw [step, nextTurn_cons _ turn s.schedule rfl, popTurn_cons _ turn s.schedule rfl]

/-- Settles O46: the reset state is what the reset action leaves of itself, and its table store lists nothing. -/
theorem resetHasTheInvariant : Obligations.ResetHasTheInvariant := by
  unfold Obligations.ResetHasTheInvariant
  rw [← resetAction_reset]
  exact resetAction_blockInv reset_tables_wf

theorem readsZero_iff (off : Nat) (width : Width) : readsZero off width = true ↔
    off + widthBytes width ≤ 8 ∨ (12 ≤ off ∧ off + widthBytes width ≤ 16) := decide_eq_true_iff

/-- No register that can read as something else stands where the window reads 0 (R38). -/
theorem windowRead_of_readsZero {off : Nat} {width : Width} (h : readsZero off width = true) (s : State) :
    windowRead off width s = some 0 := by
  have hresp : ¬(off = 0x08 ∧ width = .w16) := by rintro ⟨rfl, rfl⟩; exact absurd h (by decide)
  have hstatus : ¬(off = 0x0A ∧ width = .w16) := by rintro ⟨rfl, rfl⟩; exact absurd h (by decide)
  have hfaultCmd : ¬(off = 0x10 ∧ width = .w64) := by rintro ⟨rfl, rfl⟩; exact absurd h (by decide)
  rw [windowRead, if_neg hresp, if_neg hstatus, if_neg hfaultCmd, if_pos h]

/-- Settles O54: a read writes the model's own fields alone, and gives 0 where the window reads 0. -/
theorem noReadChangesTheBlock : Obligations.NoReadChangesTheBlock := by
  unfold Obligations.NoReadChangesTheBlock
  intro s off width hn
  have hzero (h : readsZero off width = true) : (hostRead off width (popTurn s)).readData = 0 := by
    rw [hostRead_of_windowRead (windowRead_of_readsZero h _)]
  exact ⟨_, step_hostRead hn, hostRead_popTurn_frame off width s,
    fun h => hzero ((readsZero_iff off width).2 (.inl h)),
    fun h => hzero ((readsZero_iff off width).2 (.inr h))⟩

end Sys2Proof.Machine
end
